-- ==== Sys2Proof/Word.lean ====
section
/-! DEFINITION. The word types of the block: every width the spec names (10_state.md R10, 20_memory.md R31,
30_encoding.md R51). All values are unsigned (00_scope.md R6); a width is carried by the type, which is R28. -/

namespace Sys2Proof

/-- One byte: the only width the block moves (20_memory.md R36). -/
abbrev Byte := BitVec 8

/-- `SCROLL_BITS` = 10: `scrollX`, `scrollY` (10_state.md R11, R12), and a video coordinate (45_scanout.md R140, R141). -/
abbrev Scroll := BitVec 10

/-- `LATCH_BITS` = 13: the VRAM address latch (10_state.md R16), an index into a bank. -/
abbrev Index := BitVec 13

/-- A VRAM physical address, 15 bits: bank number above index (20_memory.md R31). -/
abbrev VramAddr := BitVec 15

/-- The 17-bit transaction word `T` (30_encoding.md R51). -/
abbrev TransactionWord := BitVec 17

end Sys2Proof
end

