-- ==== Sys2Proof/Syntax.lean ====
section
/-! DEFINITION. The block's instruction set as syntax: the fifteen port roles, the port transaction as the CPU issues
it (30_encoding.md R50), one constructor of `Instr` per row of spec/opcode_table.json (30_encoding.md R62), and the
stimuli of the three agents (20_memory.md R40). -/

namespace Sys2Proof

/-- The fifteen port roles, in the order of the reference port map (30_encoding.md R53, R54). -/
inductive Role where
  | scrollxLo   -- SCROLLX_LO
  | scrollyLo   -- SCROLLY_LO
  | control   -- CONTROL
  | latchLo   -- LATCH_LO
  | latchHi   -- LATCH_HI
  | name   -- NAME
  | color   -- COLOR
  | pattern   -- PATTERN
  | palette   -- PALETTE
  | nameInc   -- NAME_INC
  | colorInc   -- COLOR_INC
  | patternInc   -- PATTERN_INC
  | paletteInc   -- PALETTE_INC
  | serPop   -- SER_POP
  | serStatus   -- SER_STATUS
deriving DecidableEq, Repr

/-- Every role, in the order of 30_encoding.md R53. -/
def Role.all : List Role :=
  [.scrollxLo, .scrollyLo, .control, .latchLo, .latchHi, .name, .color, .pattern, .palette] ++
  [.nameInc, .colorInc, .patternInc, .paletteInc, .serPop, .serStatus]

/-- The four VRAM banks (10_state.md R17). -/
inductive Bank where
  | name
  | color
  | pattern
  | palette
deriving DecidableEq, Repr

/-- A port transaction, exactly the two forms of 30_encoding.md R50: `portRead(port)` and `portWrite(port, val)`. -/
inductive PortOp where
  | read (port : Byte)
  | write (port val : Byte)
deriving DecidableEq, Repr

/-- The block's transaction forms: one constructor per row of spec/opcode_table.json, in its order. An OUT carries the
byte written; an IN carries nothing, since a read has no data field (30_encoding.md R50, R51). -/
inductive Instr where
  | outScrollxLo (v : Byte)   -- OUT_SCROLLX_LO, R70
  | inScrollxLo   -- IN_SCROLLX_LO, R73
  | outScrollyLo (v : Byte)   -- OUT_SCROLLY_LO, R71
  | inScrollyLo   -- IN_SCROLLY_LO, R74
  | outControl (v : Byte)   -- OUT_CONTROL, R72
  | inControl   -- IN_CONTROL, R75
  | outLatchLo (v : Byte)   -- OUT_LATCH_LO, R80
  | inLatchLo   -- IN_LATCH_LO, R82
  | outLatchHi (v : Byte)   -- OUT_LATCH_HI, R81
  | inLatchHi   -- IN_LATCH_HI, R83
  | outName (v : Byte)   -- OUT_NAME, R93
  | inName   -- IN_NAME, R101
  | outColor (v : Byte)   -- OUT_COLOR, R94
  | inColor   -- IN_COLOR, R102
  | outPattern (v : Byte)   -- OUT_PATTERN, R95
  | inPattern   -- IN_PATTERN, R103
  | outPalette (v : Byte)   -- OUT_PALETTE, R96
  | inPalette   -- IN_PALETTE, R104
  | outNameInc (v : Byte)   -- OUT_NAME_INC, R97
  | inNameInc   -- IN_NAME_INC, R105
  | outColorInc (v : Byte)   -- OUT_COLOR_INC, R98
  | inColorInc   -- IN_COLOR_INC, R106
  | outPatternInc (v : Byte)   -- OUT_PATTERN_INC, R99
  | inPatternInc   -- IN_PATTERN_INC, R107
  | outPaletteInc (v : Byte)   -- OUT_PALETTE_INC, R100
  | inPaletteInc   -- IN_PALETTE_INC, R108
  | outSerPop (v : Byte)   -- OUT_SER_POP, R113
  | inSerPop   -- IN_SER_POP, R111
  | outSerStatus (v : Byte)   -- OUT_SER_STATUS, R114
  | inSerStatus   -- IN_SER_STATUS, R112
  | outUnmapped (p v : Byte)   -- OUT__unmapped, R130
  | inUnmapped (p : Byte)   -- IN__unmapped, R131
deriving DecidableEq, Repr

/-- A key identifier of the keyboard host. The source leaves its type open (92_eei_decisions.md D19); a number stands
for it here, since nothing but the table of 43_serial_fifo.md R116 is ever applied to it. DESIGN CHOICE, log 12. -/
abbrev KeyId := Nat

/-- The two transitions of a key (43_serial_fifo.md R115). -/
inductive KeyTransition where
  | press
  | release
deriving DecidableEq, Repr

/-- One indivisible step of one agent (20_memory.md R40, R41): the CPU's port transaction, the redraw scheduler's step,
the keyboard host's key event. -/
inductive Stimulus where
  | transaction (op : PortOp)
  | redraw
  | keyEvent (k : KeyId) (t : KeyTransition)
deriving DecidableEq, Repr

end Sys2Proof
end

