-- ==== Sys2Proof/Config.lean ====
section
/-! DEFINITION. What an implementation fixes (00_scope.md R5; none of it is state, 10_state.md R27) and the free values.
A body-less constant is a value the spec leaves open: nothing in Lean can tell what it is, so a statement about it holds
for every value. The port map, the channel decode and the coordinate offsets, which have values, stand in Decode.lean and
Machine/Scanout.lean. -/

namespace Sys2Proof

/-- `PORT_MAP`: which port each role has (30_encoding.md R54). Its only law is that it is injective, which a statement
takes as a hypothesis (`Function.Injective pm`). -/
abbrev PortMap := Role → Byte

/-- One entry of `SCANCODE_TABLE` (43_serial_fifo.md R116): a press sequence, non-empty by its form (a first byte and the
rest), and an optional release sequence. -/
structure Scancodes where
  pressFirst : Byte
  pressRest : List Byte
  release : Option (List Byte)
deriving DecidableEq, Repr

/-- `SCANCODE_TABLE` (43_serial_fifo.md R116): `none` is an unknown key. -/
abbrev ScancodeTable := KeyId → Option Scancodes

namespace Config

/-- `SCREEN_W` (00_scope.md R5). -/
def screenW : Nat := 640

/-- `SCREEN_H` (00_scope.md R5). -/
def screenH : Nat := 480

/-- `VRAM_BANKS * VRAM_SIZE`: 4 banks of 8192 bytes (00_scope.md R5). -/
def vramBytes : Nat := 32768

/-- `VRAM_INIT` (10_state.md R17, OPEN): the power-up byte at a VRAM physical address. Log 8. -/
opaque vramInit : Nat → Byte

/-- `FB_INIT` (10_state.md R20, OPEN): the power-up byte at a framebuffer offset. Log 9. -/
opaque fbInit : Nat → Byte

/-- Which of the two values of `ZOOM_Y_OFFSET` the hardware has (45_scanout.md R141, OPEN). Log 10. -/
opaque zoomYChoice : Fin 2

/-- `ZOOM_Y_OFFSET`, one of {2, 3} (00_scope.md R5, 45_scanout.md R141). -/
def zoomYOffset : Nat := 2 + zoomYChoice.val

/-- `SCANCODE_TABLE` of the hardware (43_serial_fifo.md R116, OPEN). Log 12. -/
opaque scancodeTable : ScancodeTable

/-- The free value of a read of a write-only role: the n-th `draw({0..255})` (40_video_registers.md R73). Log 6. -/
opaque freeByte : Nat → Byte

/-- The free value of a status read of a non-empty FIFO, as a number below 255 (43_serial_fifo.md R112). Log 7. -/
opaque freeStatusIndex : Nat → Fin 255

/-- The `draw({0x01..0xFF})` of 43_serial_fifo.md R112 while the FIFO has changed `n` times: every non-zero byte is a
possible value, and no other. One value for each `n`, since a repeated read returns the same byte (20_memory.md R38). Log
7. -/
def freeStatus (n : Nat) : Byte := BitVec.ofNat 8 ((freeStatusIndex n).val + 1)

end Config

end Sys2Proof
end

