-- ==== Sys2Proof/WellFormed.lean ====
section
/-! DEFINITION. Which instructions are well formed. Every data byte of an OUT is taken whole (30_encoding.md R65), so the
one check is that an unmapped-port form names a port that no role has (30_encoding.md R55, 44_unmapped.md). -/

namespace Sys2Proof

/-- Some role has port `p` (30_encoding.md R55). -/
def PortMap.mapped (pm : PortMap) (p : Byte) : Bool := Role.all.any fun r => pm r == p

/-- `i` is a transaction form the block has under the port map `pm` (30_encoding.md R55, R62). -/
def Instr.wellFormedFor (pm : PortMap) : Instr → Bool
  | .outScrollxLo _ => true
  | .inScrollxLo => true
  | .outScrollyLo _ => true
  | .inScrollyLo => true
  | .outControl _ => true
  | .inControl => true
  | .outLatchLo _ => true
  | .inLatchLo => true
  | .outLatchHi _ => true
  | .inLatchHi => true
  | .outName _ => true
  | .inName => true
  | .outColor _ => true
  | .inColor => true
  | .outPattern _ => true
  | .inPattern => true
  | .outPalette _ => true
  | .inPalette => true
  | .outNameInc _ => true
  | .inNameInc => true
  | .outColorInc _ => true
  | .inColorInc => true
  | .outPatternInc _ => true
  | .inPatternInc => true
  | .outPaletteInc _ => true
  | .inPaletteInc => true
  | .outSerPop _ => true
  | .inSerPop => true
  | .outSerStatus _ => true
  | .inSerStatus => true
  | .outUnmapped p _ => !pm.mapped p
  | .inUnmapped p => !pm.mapped p

end Sys2Proof
end

