-- ==== Sys2Proof/Decode.lean ====
section
/-! DEFINITION. From a port transaction to an instruction and back: the port maps (30_encoding.md R54), the port decode
(R55), the 17-bit transaction word (R51), its three bytes, and the pseudo-instructions (R64). Decoding is total on
transactions (20_memory.md R32, 44_unmapped.md R132); only a byte list that holds no 17-bit word is rejected, by name. -/

namespace Sys2Proof

/-- The spec's reference port map (30_encoding.md R54, 92_eei_decisions.md D2): the roles at 0x00 to 0x0E in the order of
R53. The source fixes no port number. -/
def referencePortMap : PortMap
  | .scrollxLo => 0x00
  | .scrollyLo => 0x01
  | .control => 0x02
  | .latchLo => 0x03
  | .latchHi => 0x04
  | .name => 0x05
  | .color => 0x06
  | .pattern => 0x07
  | .palette => 0x08
  | .nameInc => 0x09
  | .colorInc => 0x0A
  | .patternInc => 0x0B
  | .paletteInc => 0x0C
  | .serPop => 0x0D
  | .serStatus => 0x0E

/-- The port map `Sys2Proof.Machine.step` and `decodeTableWord` use: the reference map, which spec/opcode_table.json is
written in. DESIGN CHOICE, log 1: statements are made for every injective map through `decodeWith` and `stepWith`. -/
def portMap : PortMap := referencePortMap

/-- The OUT transaction of a role (30_encoding.md R53, R62). -/
def Role.outInstr : Role → Byte → Instr
  | .scrollxLo, v => .outScrollxLo v
  | .scrollyLo, v => .outScrollyLo v
  | .control, v => .outControl v
  | .latchLo, v => .outLatchLo v
  | .latchHi, v => .outLatchHi v
  | .name, v => .outName v
  | .color, v => .outColor v
  | .pattern, v => .outPattern v
  | .palette, v => .outPalette v
  | .nameInc, v => .outNameInc v
  | .colorInc, v => .outColorInc v
  | .patternInc, v => .outPatternInc v
  | .paletteInc, v => .outPaletteInc v
  | .serPop, v => .outSerPop v
  | .serStatus, v => .outSerStatus v

/-- The IN transaction of a role (30_encoding.md R53, R62). -/
def Role.inInstr : Role → Instr
  | .scrollxLo => .inScrollxLo
  | .scrollyLo => .inScrollyLo
  | .control => .inControl
  | .latchLo => .inLatchLo
  | .latchHi => .inLatchHi
  | .name => .inName
  | .color => .inColor
  | .pattern => .inPattern
  | .palette => .inPalette
  | .nameInc => .inNameInc
  | .colorInc => .inColorInc
  | .patternInc => .inPatternInc
  | .paletteInc => .inPaletteInc
  | .serPop => .inSerPop
  | .serStatus => .inSerStatus

/-- The role at port `p`, if a role has it: at most one has, where `pm` is injective (30_encoding.md R55). -/
def PortMap.roleAt (pm : PortMap) (p : Byte) : Option Role := Role.all.find? fun r => pm r == p

/-- Port decode (30_encoding.md R55): the role's transaction in its direction, or the unmapped-port transaction. -/
def decodeWith (pm : PortMap) : PortOp → Instr
  | .write p v => match pm.roleAt p with
    | some r => r.outInstr v
    | none => .outUnmapped p v
  | .read p => match pm.roleAt p with
    | some r => r.inInstr
    | none => .inUnmapped p

/-- The transaction that a transaction word writes down (30_encoding.md R51): `T[16]` the direction, `T[15:8]` the port,
`T[7:0]` the byte written; the data bits of an IN word are ignored (spec/opcode_table.json, field d; log 19). -/
def PortOp.ofWord (w : TransactionWord) : PortOp :=
  if w.getLsbD 16 then .write (w.extractLsb' 8 8) (w.extractLsb' 0 8) else .read (w.extractLsb' 8 8)

/-- The transaction word of a transaction (30_encoding.md R51): an IN has 0 in its data bits. -/
def PortOp.toWord : PortOp → TransactionWord
  | .write p v => (1#1 ++ p ++ v : BitVec (1 + 8 + 8))
  | .read p => (0#1 ++ p ++ 0#8 : BitVec (1 + 8 + 8))

/-- The instruction of a transaction word. -/
def decodeWord (pm : PortMap) (w : TransactionWord) : Instr := decodeWith pm (PortOp.ofWord w)

/-- The transaction an instruction stands for under the port map `pm` (30_encoding.md R50, R53, R54). -/
def Instr.portOp (pm : PortMap) : Instr → PortOp
  | .outScrollxLo v => .write (pm .scrollxLo) v
  | .inScrollxLo => .read (pm .scrollxLo)
  | .outScrollyLo v => .write (pm .scrollyLo) v
  | .inScrollyLo => .read (pm .scrollyLo)
  | .outControl v => .write (pm .control) v
  | .inControl => .read (pm .control)
  | .outLatchLo v => .write (pm .latchLo) v
  | .inLatchLo => .read (pm .latchLo)
  | .outLatchHi v => .write (pm .latchHi) v
  | .inLatchHi => .read (pm .latchHi)
  | .outName v => .write (pm .name) v
  | .inName => .read (pm .name)
  | .outColor v => .write (pm .color) v
  | .inColor => .read (pm .color)
  | .outPattern v => .write (pm .pattern) v
  | .inPattern => .read (pm .pattern)
  | .outPalette v => .write (pm .palette) v
  | .inPalette => .read (pm .palette)
  | .outNameInc v => .write (pm .nameInc) v
  | .inNameInc => .read (pm .nameInc)
  | .outColorInc v => .write (pm .colorInc) v
  | .inColorInc => .read (pm .colorInc)
  | .outPatternInc v => .write (pm .patternInc) v
  | .inPatternInc => .read (pm .patternInc)
  | .outPaletteInc v => .write (pm .paletteInc) v
  | .inPaletteInc => .read (pm .paletteInc)
  | .outSerPop v => .write (pm .serPop) v
  | .inSerPop => .read (pm .serPop)
  | .outSerStatus v => .write (pm .serStatus) v
  | .inSerStatus => .read (pm .serStatus)
  | .outUnmapped p v => .write p v
  | .inUnmapped p => .read p

/-- The transaction word of an instruction under the port map `pm` (30_encoding.md R51). -/
def encodeWord (pm : PortMap) (i : Instr) : TransactionWord := (i.portOp pm).toWord

/-- Well formed under the port map of the fixed names. -/
def Instr.wellFormed (i : Instr) : Bool := i.wellFormedFor portMap

/-- The encoder under the port map of the fixed names. -/
def encode (i : Instr) : TransactionWord := encodeWord portMap i

/-- Why a list of bytes is no transaction word. The hardware has no such list (30_encoding.md R51), so no rule of the
spec is refused by it. -/
inductive DecodeError where
  /-- Fewer than three bytes. -/
  | tooFewBytes
  /-- The third byte has a bit set above the direction bit, so the word is wider than 17 bits. -/
  | widerThanSeventeenBits
deriving DecidableEq, Repr

/-- A transaction from the three bytes of its word, the first holding bits 7:0 (DESIGN CHOICE, log 2), and the bytes
after it. -/
def PortOp.ofBytes : List Byte → Except DecodeError (PortOp × List Byte)
  | data :: port :: dir :: rest =>
    if dir.toNat < 2 then .ok (PortOp.ofWord (dir.setWidth 1 ++ port ++ data : BitVec (1 + 8 + 8)), rest)
    else .error .widerThanSeventeenBits
  | _ => .error .tooFewBytes

/-- The decoder on bytes: total, and rejecting by name. -/
def decodeBytes (pm : PortMap) (bs : List Byte) : Except DecodeError (Instr × List Byte) :=
  match PortOp.ofBytes bs with
  | .ok (op, rest) => .ok (decodeWith pm op, rest)
  | .error e => .error e

/-- The three bytes of a number below 2^24, the least significant first (log 2). -/
def wordBytes (w : Nat) : List Byte := [BitVec.ofNat 8 w, BitVec.ofNat 8 (w / 256), BitVec.ofNat 8 (w / 65536)]

/-- The transaction whose word is `w`, of which the opcode table gives `nbits` bits; `none` where `w` is no 17-bit word. -/
def tableTransaction (nbits w : Nat) : Option PortOp :=
  if w < 2 ^ nbits ∧ w < 2 ^ 24 then
    match PortOp.ofBytes (wordBytes w) with
    | .ok (op, _) => some op
    | .error _ => none
  else none

/-- The instruction read from an opcode-table word. -/
def decodeTableWord (nbits w : Nat) : Option Instr := (tableTransaction nbits w).map (decodeWith portMap)

/-- The pseudo-instruction `SETLATCH a` (30_encoding.md R64). -/
def setLatchProgram (a : Index) : List Instr :=
  [.outLatchLo (a.extractLsb' 0 8), .outLatchHi ((a.extractLsb' 8 5).setWidth 8)]

/-- The pseudo-instruction `SETVIDEO sx, sy, zx, zy, tm` (30_encoding.md R64). -/
def setVideoProgram (sx sy : Scroll) (zx zy tm : Bool) : List Instr :=
  [.outScrollxLo (sx.extractLsb' 0 8), .outScrollyLo (sy.extractLsb' 0 8),
   .outControl (((BitVec.ofBool tm).setWidth 8 <<< 7) ||| ((BitVec.ofBool zy).setWidth 8 <<< 6) |||
     ((sy.extractLsb' 8 2).setWidth 8 <<< 4) ||| ((BitVec.ofBool zx).setWidth 8 <<< 2) |||
     (sx.extractLsb' 8 2).setWidth 8)]

end Sys2Proof
end

