-- ==== Sys2Proof/Machine/State.lean ====
section
/-! DEFINITION. The block's state as plain data: the ten elements of 10_state.md R10, and three fields of the model's
own (the schedule the environment issues, the bytes delivered to the CPU, the count of free values taken). -/

namespace Sys2Proof.Machine

/-- Why the machine stops with a fault: never. "The block raises no exception" (60_exceptions.md R160), and every
transaction is defined in every state (44_unmapped.md R132), so the type has no constructor and nobody can raise one. -/
inductive Fault
deriving DecidableEq, Repr

/-- Why an instruction has no meaning. -/
inductive Refusal where
  /-- An arm of `exec` whose instruction has no meaning yet; no arm answers with it. Safe: it stops. -/
  | notModelled (mnemonic : String)
deriving DecidableEq, Repr

/-- VRAM (10_state.md R17), by physical address (20_memory.md R31), in canonical form (`Memory.wf`): addresses strictly
rising, no cell equal to what its address reads as when unlisted. -/
abbrev Memory := List Host.Cell

/-- The framebuffer's 640 x 480 x 4 bytes (10_state.md R20). -/
abbrev Framebuffer := Vector Byte 1228800

/-- The state of the block (10_state.md R10) and of the model's environment. -/
structure State where
  /-- 10_state.md R11. -/
  scrollX : Scroll
  /-- 10_state.md R12. -/
  scrollY : Scroll
  /-- 10_state.md R13. -/
  zoomX : Bool
  /-- 10_state.md R14. -/
  zoomY : Bool
  /-- 10_state.md R15. -/
  textMode : Bool
  /-- 10_state.md R16: the VRAM address latch. -/
  latch : Index
  /-- 10_state.md R17: the four VRAM banks. -/
  vram : Memory
  /-- 10_state.md R18. -/
  dirty : Bool
  /-- 10_state.md R19: the scancode FIFO, its head (the oldest byte) first. -/
  fifo : List Byte
  /-- 10_state.md R20, R139. -/
  fb : Framebuffer
  /-- The model's own: the steps the three agents take next, in the one sequence of 20_memory.md R42. Log 3. -/
  pending : List Stimulus
  /-- The model's own: the bytes port reads have returned to the CPU (00_scope.md R7), the latest first. Log 5. -/
  delivered : List Byte
  /-- The model's own: how many free values the reads of write-only roles have taken. Log 6. -/
  draws : Nat
  /-- The model's own: how many times the FIFO has changed; it selects the free value of a status read, which stays the
  same until the FIFO changes (20_memory.md R38). Log 7. -/
  fifoChanges : Nat
deriving DecidableEq, Repr

/-- Power-up (70_reset_and_hazards.md R180): registers, flags and latch 0, `dirty` 1, the FIFO empty, VRAM holding
`VRAM_INIT` (nothing listed) and the framebuffer `FB_INIT`. -/
def State.reset : State where
  scrollX := 0
  scrollY := 0
  zoomX := false
  zoomY := false
  textMode := false
  latch := 0
  vram := []
  dirty := true
  fifo := []
  fb := Vector.ofFn fun i => Config.fbInit i.val
  pending := []
  delivered := []
  draws := 0
  fifoChanges := 0

end Sys2Proof.Machine
end

