-- ==== Sys2Proof/Machine/Flags.lean ====
section
/-! DEFINITION. The block's two status conditions (10_state.md R24): the dirty flag, and whether the FIFO is non-empty,
which is computed and not stored. -/

namespace Sys2Proof.Machine

/-- `dirty <- 1` (10_state.md R18). -/
def markDirty (s : State) : State := { s with dirty := true }

/-- The dirty flag after a bank write: set if the byte changed, else as it was (42_vram_access.md R91). -/
def dirtyAfterStore (dirty : Bool) (old new : Byte) : Bool := dirty || old != new

/-- `fifo` is not the empty sequence (10_state.md R24). -/
def fifoNonEmpty (s : State) : Bool := !s.fifo.isEmpty

end Sys2Proof.Machine
end

