-- ==== Sys2Proof/Machine/Operands.lean ====
section
/-! DEFINITION. The operand forms: the fields of the control byte (30_encoding.md R56), the assembly of scroll and latch
from their parts (R58, R59), and the address of a VRAM byte (20_memory.md R31). -/

namespace Sys2Proof.Machine

/-- Control byte bits 1:0, the high part of `scrollX` (30_encoding.md R56). -/
def controlScrollXHigh (v : Byte) : BitVec 2 := v.extractLsb' 0 2

/-- Control byte bit 2, `zoomX` (30_encoding.md R56). -/
def controlZoomX (v : Byte) : Bool := v.getLsbD 2

/-- Control byte bits 5:4, the high part of `scrollY` (30_encoding.md R56). Bit 3 has no field (R57). -/
def controlScrollYHigh (v : Byte) : BitVec 2 := v.extractLsb' 4 2

/-- Control byte bit 6, `zoomY` (30_encoding.md R56). -/
def controlZoomY (v : Byte) : Bool := v.getLsbD 6

/-- Control byte bit 7, `textMode` (30_encoding.md R56). -/
def controlTextMode (v : Byte) : Bool := v.getLsbD 7

/-- Replace the low byte of a scroll offset, keeping bits 9:8 (30_encoding.md R58). -/
def mergeScrollLow (x : Scroll) (v : Byte) : Scroll := (x.extractLsb' 8 2 ++ v : BitVec (2 + 8))

/-- Replace bits 9:8 of a scroll offset, keeping the low byte (30_encoding.md R58). -/
def mergeScrollHigh (x : Scroll) (h : BitVec 2) : Scroll := (h ++ x.extractLsb' 0 8 : BitVec (2 + 8))

/-- Replace the low byte of the latch, keeping bits 12:8 (30_encoding.md R59). -/
def mergeLatchLow (l : Index) (v : Byte) : Index := (l.extractLsb' 8 5 ++ v : BitVec (5 + 8))

/-- Replace bits 12:8 of the latch by `v[4:0]`, discarding `v[7:5]` and keeping the low byte (30_encoding.md R59). -/
def mergeLatchHigh (l : Index) (v : Byte) : Index := (v.extractLsb' 0 5 ++ l.extractLsb' 0 8 : BitVec (5 + 8))

/-- The number of a bank (10_state.md R17, 42_vram_access.md R90). -/
def bankNumber : Bank → BitVec 2
  | .name => 0
  | .color => 1
  | .pattern => 2
  | .palette => 3

/-- The physical address of the byte at an index of a bank: bank number above index (20_memory.md R31). -/
def vramAddr (b : Bank) (i : Index) : VramAddr := (bankNumber b ++ i : BitVec (2 + 13))

end Sys2Proof.Machine
end

