-- ==== Sys2Proof/Machine/Ops.lean ====
section
/-! DEFINITION. The named operations over memory and registers that the meanings share: VRAM bytes (00_scope.md R7,
42_vram_access.md R91), the latch (R92), the FIFO (43_serial_fifo.md R110), and the byte a read delivers. The block takes
no exception and returns from none (60_exceptions.md R160, R163), so no operation here does. -/

namespace Sys2Proof.Machine

/-- What a VRAM address reads as while nothing is listed there: its power-up byte (10_state.md R17). -/
def memUnlisted (a : Nat) : Byte := Config.vramInit a

/-- `MemRead(a, 1)` (00_scope.md R7). -/
def memRead : Memory → Nat → Byte
  | [], a => memUnlisted a
  | c :: m, a => if c.1 = a then c.2 else memRead m a

/-- The memory with no cell at `a`. -/
def memErase (m : Memory) (a : Nat) : Memory := m.filter fun c => c.1 != a

/-- The memory with `c` put before the first cell of a higher address. -/
def memInsert (c : Host.Cell) : Memory → Memory
  | [] => [c]
  | d :: m => if c.1 < d.1 then c :: d :: m else d :: memInsert c m

/-- `MemWrite(a, 1, v)` (00_scope.md R7), keeping the canonical form: a byte equal to the unlisted one is not listed. -/
def memWrite (m : Memory) (a : Nat) (v : Byte) : Memory :=
  if v = memUnlisted a then memErase m a else memInsert (a, v) (memErase m a)

/-- The canonical form of a memory: addresses strictly rising, each inside VRAM (20_memory.md R31), and no cell equal to
what its address reads as when unlisted. -/
abbrev Memory.wf (m : Memory) : Prop :=
  m.Pairwise (fun c d => c.1 < d.1) ∧ ∀ c ∈ m, c.1 < Config.vramBytes ∧ c.2 ≠ memUnlisted c.1

/-- `VRAM[b][i]` (00_scope.md R7, 20_memory.md R31). -/
def vramByte (s : State) (b : Bank) (i : Index) : Byte := memRead s.vram (vramAddr b i).toNat

/-- `VramStore(b, v)` (42_vram_access.md R91): store at the latch; `dirty` is set if the byte changed. -/
def vramStore (b : Bank) (v : Byte) (s : State) : State :=
  { s with vram := memWrite s.vram (vramAddr b s.latch).toNat v,
           dirty := dirtyAfterStore s.dirty (vramByte s b s.latch) v }

/-- `LatchIncrement()` (42_vram_access.md R92): modulo 8192. -/
def latchIncrement (s : State) : State := { s with latch := s.latch + 1 }

/-- `return v` of a port read (00_scope.md R7): the byte goes to the CPU. -/
def deliver (v : Byte) (s : State) : State := { s with delivered := v :: s.delivered }

/-- Count one free value of a write-only role's read as taken. -/
def nextDraw (s : State) : State := { s with draws := s.draws + 1 }

/-- `return draw({0..255})`: a read of a write-only role (40_video_registers.md R73). -/
def deliverFree (s : State) : State := nextDraw (deliver (Config.freeByte s.draws) s)

/-- `fifo <- q`, counting a change of the FIFO for the free value of a status read (20_memory.md R38; log 7). -/
def setFifo (q : List Byte) (s : State) : State :=
  { s with fifo := q, fifoChanges := if q = s.fifo then s.fifoChanges else s.fifoChanges + 1 }

/-- `FifoPush` (43_serial_fifo.md R110): append at the tail; never refuses, never drops. -/
def fifoPush (bytes : List Byte) (s : State) : State := setFifo (s.fifo ++ bytes) s

/-- `FifoPop` (43_serial_fifo.md R110): remove the head. -/
def fifoPop (s : State) : State := setFifo s.fifo.tail s

/-- A direct bank read: the byte at the latch is delivered (42_vram_access.md R101). -/
def bankRead (b : Bank) (s : State) : State := deliver (vramByte s b s.latch) s

/-- An auto-increment bank read: the byte at the latch is delivered, then the latch advances (42_vram_access.md R105). -/
def bankReadInc (b : Bank) (s : State) : State := latchIncrement (bankRead b s)

/-- An auto-increment bank write: the store uses the latch before it advances (42_vram_access.md R97). -/
def bankWriteInc (b : Bank) (v : Byte) (s : State) : State := latchIncrement (vramStore b v s)

end Sys2Proof.Machine
end

