-- ==== Sys2Proof/Machine/Latch.lean ====
section
/-! DEFINITION. The VRAM address latch transactions (41_latch.md R80 to R83). -/

namespace Sys2Proof.Machine

/-- `OUT LATCH_LO, v` (41_latch.md R80): the low byte of the latch; `dirty` is not changed (log 15). -/
def execOutLatchLo (v : Byte) (s : State) : Host.Outcome State Fault Refusal :=
  .next { s with latch := mergeLatchLow s.latch v }

/-- `IN LATCH_LO` (41_latch.md R82): a free byte; no state is written. -/
def execInLatchLo (s : State) : Host.Outcome State Fault Refusal :=
  .next (deliverFree s)

/-- `OUT LATCH_HI, v` (41_latch.md R81): the high part of the latch from `v[4:0]`; `dirty` is not changed (log 15). -/
def execOutLatchHi (v : Byte) (s : State) : Host.Outcome State Fault Refusal :=
  .next { s with latch := mergeLatchHigh s.latch v }

/-- `IN LATCH_HI` (41_latch.md R83): a free byte; no state is written. -/
def execInLatchHi (s : State) : Host.Outcome State Fault Refusal :=
  .next (deliverFree s)

end Sys2Proof.Machine
end

