-- ==== Sys2Proof/Machine/Serial.lean ====
section
/-! DEFINITION. The scancode FIFO's transactions (43_serial_fifo.md R111 to R114) and the keyboard host's step (R115). -/

namespace Sys2Proof.Machine

/-- `OUT SER_POP, v` (43_serial_fifo.md R113): no state is written; `v` is discarded (log 17). -/
def execOutSerPop (_v : Byte) (s : State) : Host.Outcome State Fault Refusal :=
  .next s

/-- `IN SER_POP` (43_serial_fifo.md R111): remove and return the head; 0x00 and no change when the FIFO is empty. -/
def execInSerPop (s : State) : Host.Outcome State Fault Refusal :=
  match s.fifo with
  | [] => .next (deliver 0x00 s)
  | b :: _ => .next (deliver b (fifoPop s))

/-- `OUT SER_STATUS, v` (43_serial_fifo.md R114): no state is written; `v` is discarded (log 17). -/
def execOutSerStatus (_v : Byte) (s : State) : Host.Outcome State Fault Refusal :=
  .next s

/-- `IN SER_STATUS` (43_serial_fifo.md R112): a free non-zero byte when the FIFO is non-empty, else 0x00; no state is
written. A repeated read returns the same byte until the FIFO changes (20_memory.md R38), although R112's pseudocode draws
on each read; after a change the byte is free again (DESIGN CHOICE, log 7). -/
def execInSerStatus (s : State) : Host.Outcome State Fault Refusal :=
  if fifoNonEmpty s then .next (deliver (Config.freeStatus s.fifoChanges) s)
  else .next (deliver 0x00 s)

/-- The bytes a key event appends (43_serial_fifo.md R115): a function of the key and the transition alone (R117). An
unknown key, and a release of a key with no release sequence, append none. -/
def keyBytes (table : ScancodeTable) (k : KeyId) (t : KeyTransition) : List Byte :=
  match table k, t with
  | none, _ => []
  | some e, .press => e.pressFirst :: e.pressRest
  | some e, .release => e.release.getD []

/-- `KeyEvent(k, t)` (43_serial_fifo.md R115): all of its bytes are appended in one step; no flag is set. -/
def keyEventStep (table : ScancodeTable) (k : KeyId) (t : KeyTransition) (s : State) : State :=
  fifoPush (keyBytes table k t) s

end Sys2Proof.Machine
end

