-- ==== Sys2Proof/Machine/Unmapped.lean ====
section
/-! DEFINITION. The unmapped-port transactions (44_unmapped.md R130, R131). -/

namespace Sys2Proof.Machine

/-- `OUT p, v` with `p` unmapped (44_unmapped.md R130): no state is written. -/
def execOutUnmapped (_p _v : Byte) (s : State) : Host.Outcome State Fault Refusal :=
  .next s

/-- `IN p` with `p` unmapped (44_unmapped.md R131): returns 0x00; no state is written. -/
def execInUnmapped (_p : Byte) (s : State) : Host.Outcome State Fault Refusal :=
  .next (deliver 0x00 s)

end Sys2Proof.Machine
end

