-- ==== Sys2Proof/Machine/Video.lean ====
section
/-! DEFINITION. The scroll and control transactions (40_video_registers.md R70 to R75). -/

namespace Sys2Proof.Machine

/-- `OUT SCROLLX_LO, v` (40_video_registers.md R70): the low byte of `scrollX`; `dirty` on every write (log 14). -/
def execOutScrollxLo (v : Byte) (s : State) : Host.Outcome State Fault Refusal :=
  .next (markDirty { s with scrollX := mergeScrollLow s.scrollX v })

/-- `IN SCROLLX_LO` (40_video_registers.md R73): a free byte; no state is written. -/
def execInScrollxLo (s : State) : Host.Outcome State Fault Refusal :=
  .next (deliverFree s)

/-- `OUT SCROLLY_LO, v` (40_video_registers.md R71): the low byte of `scrollY`; `dirty` on every write (log 14). -/
def execOutScrollyLo (v : Byte) (s : State) : Host.Outcome State Fault Refusal :=
  .next (markDirty { s with scrollY := mergeScrollLow s.scrollY v })

/-- `IN SCROLLY_LO` (40_video_registers.md R74): a free byte; no state is written. -/
def execInScrollyLo (s : State) : Host.Outcome State Fault Refusal :=
  .next (deliverFree s)

/-- `OUT CONTROL, v` (40_video_registers.md R72): the control byte's five fields; `dirty` on every write. -/
def execOutControl (v : Byte) (s : State) : Host.Outcome State Fault Refusal :=
  .next (markDirty { s with
    scrollX := mergeScrollHigh s.scrollX (controlScrollXHigh v)
    zoomX := controlZoomX v
    scrollY := mergeScrollHigh s.scrollY (controlScrollYHigh v)
    zoomY := controlZoomY v
    textMode := controlTextMode v })

/-- `IN CONTROL` (40_video_registers.md R75): a free byte; no state is written. -/
def execInControl (s : State) : Host.Outcome State Fault Refusal :=
  .next (deliverFree s)

end Sys2Proof.Machine
end

