-- ==== Sys2Proof/Machine/Vram.lean ====
section
/-! DEFINITION. The VRAM bank transactions (42_vram_access.md R93 to R108). -/

namespace Sys2Proof.Machine

/-- `OUT NAME, v` (42_vram_access.md R93): write the name bank at the latch; the latch does not move. -/
def execOutName (v : Byte) (s : State) : Host.Outcome State Fault Refusal :=
  .next (vramStore .name v s)

/-- `IN NAME` (42_vram_access.md R101): read the name bank at the latch; the latch does not move. -/
def execInName (s : State) : Host.Outcome State Fault Refusal :=
  .next (bankRead .name s)

/-- `OUT COLOR, v` (42_vram_access.md R94): write the color bank at the latch; the latch does not move. -/
def execOutColor (v : Byte) (s : State) : Host.Outcome State Fault Refusal :=
  .next (vramStore .color v s)

/-- `IN COLOR` (42_vram_access.md R102): read the color bank at the latch; the latch does not move. -/
def execInColor (s : State) : Host.Outcome State Fault Refusal :=
  .next (bankRead .color s)

/-- `OUT PATTERN, v` (42_vram_access.md R95): write the pattern bank at the latch; the latch does not move. -/
def execOutPattern (v : Byte) (s : State) : Host.Outcome State Fault Refusal :=
  .next (vramStore .pattern v s)

/-- `IN PATTERN` (42_vram_access.md R103): read the pattern bank at the latch; the latch does not move. -/
def execInPattern (s : State) : Host.Outcome State Fault Refusal :=
  .next (bankRead .pattern s)

/-- `OUT PALETTE, v` (42_vram_access.md R96): write the palette bank at the latch; the latch does not move. -/
def execOutPalette (v : Byte) (s : State) : Host.Outcome State Fault Refusal :=
  .next (vramStore .palette v s)

/-- `IN PALETTE` (42_vram_access.md R104): read the palette bank at the latch; the latch does not move. -/
def execInPalette (s : State) : Host.Outcome State Fault Refusal :=
  .next (bankRead .palette s)

/-- `OUT NAME_INC, v` (42_vram_access.md R97): write the name bank at the latch, then advance the latch. -/
def execOutNameInc (v : Byte) (s : State) : Host.Outcome State Fault Refusal :=
  .next (bankWriteInc .name v s)

/-- `IN NAME_INC` (42_vram_access.md R105): read the name bank at the latch, then advance the latch. -/
def execInNameInc (s : State) : Host.Outcome State Fault Refusal :=
  .next (bankReadInc .name s)

/-- `OUT COLOR_INC, v` (42_vram_access.md R98): write the color bank at the latch, then advance the latch. -/
def execOutColorInc (v : Byte) (s : State) : Host.Outcome State Fault Refusal :=
  .next (bankWriteInc .color v s)

/-- `IN COLOR_INC` (42_vram_access.md R106): read the color bank at the latch, then advance the latch. -/
def execInColorInc (s : State) : Host.Outcome State Fault Refusal :=
  .next (bankReadInc .color s)

/-- `OUT PATTERN_INC, v` (42_vram_access.md R99): write the pattern bank at the latch, then advance the latch. -/
def execOutPatternInc (v : Byte) (s : State) : Host.Outcome State Fault Refusal :=
  .next (bankWriteInc .pattern v s)

/-- `IN PATTERN_INC` (42_vram_access.md R107): read the pattern bank at the latch, then advance the latch. -/
def execInPatternInc (s : State) : Host.Outcome State Fault Refusal :=
  .next (bankReadInc .pattern s)

/-- `OUT PALETTE_INC, v` (42_vram_access.md R100): write the palette bank at the latch, then advance the latch. -/
def execOutPaletteInc (v : Byte) (s : State) : Host.Outcome State Fault Refusal :=
  .next (bankWriteInc .palette v s)

/-- `IN PALETTE_INC` (42_vram_access.md R108): read the palette bank at the latch, then advance the latch. -/
def execInPaletteInc (s : State) : Host.Outcome State Fault Refusal :=
  .next (bankReadInc .palette s)

end Sys2Proof.Machine
end

