-- ==== Sys2Proof/Machine/Dispatch.lean ====
section
/-! DEFINITION. One arm per transaction form of the block, each a direct call of its meaning (30_encoding.md R62). -/

namespace Sys2Proof.Machine

def exec (i : Instr) (s : State) : Host.Outcome State Fault Refusal :=
  match i with
  | .outScrollxLo v => Sys2Proof.Machine.execOutScrollxLo v s
  | .inScrollxLo => Sys2Proof.Machine.execInScrollxLo s
  | .outScrollyLo v => Sys2Proof.Machine.execOutScrollyLo v s
  | .inScrollyLo => Sys2Proof.Machine.execInScrollyLo s
  | .outControl v => Sys2Proof.Machine.execOutControl v s
  | .inControl => Sys2Proof.Machine.execInControl s
  | .outLatchLo v => Sys2Proof.Machine.execOutLatchLo v s
  | .inLatchLo => Sys2Proof.Machine.execInLatchLo s
  | .outLatchHi v => Sys2Proof.Machine.execOutLatchHi v s
  | .inLatchHi => Sys2Proof.Machine.execInLatchHi s
  | .outName v => Sys2Proof.Machine.execOutName v s
  | .inName => Sys2Proof.Machine.execInName s
  | .outColor v => Sys2Proof.Machine.execOutColor v s
  | .inColor => Sys2Proof.Machine.execInColor s
  | .outPattern v => Sys2Proof.Machine.execOutPattern v s
  | .inPattern => Sys2Proof.Machine.execInPattern s
  | .outPalette v => Sys2Proof.Machine.execOutPalette v s
  | .inPalette => Sys2Proof.Machine.execInPalette s
  | .outNameInc v => Sys2Proof.Machine.execOutNameInc v s
  | .inNameInc => Sys2Proof.Machine.execInNameInc s
  | .outColorInc v => Sys2Proof.Machine.execOutColorInc v s
  | .inColorInc => Sys2Proof.Machine.execInColorInc s
  | .outPatternInc v => Sys2Proof.Machine.execOutPatternInc v s
  | .inPatternInc => Sys2Proof.Machine.execInPatternInc s
  | .outPaletteInc v => Sys2Proof.Machine.execOutPaletteInc v s
  | .inPaletteInc => Sys2Proof.Machine.execInPaletteInc s
  | .outSerPop v => Sys2Proof.Machine.execOutSerPop v s
  | .inSerPop => Sys2Proof.Machine.execInSerPop s
  | .outSerStatus v => Sys2Proof.Machine.execOutSerStatus v s
  | .inSerStatus => Sys2Proof.Machine.execInSerStatus s
  | .outUnmapped p v => Sys2Proof.Machine.execOutUnmapped p v s
  | .inUnmapped p => Sys2Proof.Machine.execInUnmapped p s

end Sys2Proof.Machine
end

