-- ==== Sys2Proof/Machine/Scanout.lean ====
section
/-! DEFINITION. The tile-map scanout engine (45_scanout.md R135 to R155): one pixel from the registers and VRAM, in the
bit-field form of R154; the framebuffer a pass writes; and the redraw scheduler's step. -/

namespace Sys2Proof.Machine

/-- `X_OFFSET` (00_scope.md R5, 45_scanout.md R140). -/
def xOffset : Nat := 3

/-- `X_OFFSET_ZOOM` (00_scope.md R5, 45_scanout.md R140). -/
def xOffsetZoom : Nat := 2

/-- `Y_OFFSET` (00_scope.md R5, 45_scanout.md R141). -/
def yOffset : Nat := 4

/-- A video coordinate (45_scanout.md R140, R141): halved and offset under zoom, offset alone without, plus the scroll,
modulo 1024. -/
def videoCoord (zoom : Bool) (offZoom off : Nat) (scroll : Scroll) (c : Nat) : Scroll :=
  BitVec.ofNat 10 ((if zoom then c / 2 + offZoom else c + off) + scroll.toNat)

/-- `videoX` (45_scanout.md R140). -/
def videoX (s : State) (x : Nat) : Scroll := videoCoord s.zoomX xOffsetZoom xOffset s.scrollX x

/-- `videoY` (45_scanout.md R141), with `ZOOM_Y_OFFSET` the offset under zoom. -/
def videoY (s : State) (y : Nat) : Scroll := videoCoord s.zoomY Config.zoomYOffset yOffset s.scrollY y

/-- `tileX` (45_scanout.md R142). -/
def tileX (vx : Scroll) : BitVec 7 := vx.extractLsb' 3 7

/-- `tileY` (45_scanout.md R143): in text mode its low bit is `videoY[9]`. -/
def tileY (textMode : Bool) (vy : Scroll) : BitVec 6 :=
  if textMode then (vy.extractLsb' 4 5 ++ vy.extractLsb' 9 1 : BitVec (5 + 1)) else vy.extractLsb' 3 6

/-- `tileAddr` (45_scanout.md R144). -/
def tileAddr (ty : BitVec 6) (tx : BitVec 7) : Index := (ty ++ tx : BitVec (6 + 7))

/-- `patternAddr` (45_scanout.md R145). -/
def patternAddr (nameByte : Byte) (vx vy : Scroll) : Index :=
  (nameByte ++ vy.extractLsb' 1 2 ++ vx.extractLsb' 0 3 : BitVec (8 + 2 + 3))

/-- The pixel's nibble of a pattern byte (45_scanout.md R146, 30_encoding.md R60): low for even rows, high for odd. -/
def pixelNibble (vy : Scroll) (patternByte : Byte) : BitVec 4 :=
  if vy.getLsbD 0 then patternByte.extractLsb' 4 4 else patternByte.extractLsb' 0 4

/-- The palette page bit (45_scanout.md R147). -/
def palettePage (textMode : Bool) (vy : Scroll) : BitVec 1 :=
  if textMode then vy.extractLsb' 3 1 else vy.extractLsb' 9 1

/-- `paletteAddr` (45_scanout.md R148). -/
def paletteAddr (page : BitVec 1) (colorByte : Byte) (nibble : BitVec 4) : Index :=
  (page ++ colorByte ++ nibble : BitVec (1 + 8 + 4))

/-- `CHANNEL_DECODE(h, l, Ii)` (45_scanout.md R151, 92_eei_decisions.md D17): the formula as written, the low bit and the
intensity's high bit both at bit 1. It is a parameter of the spec with this formula as its value; log 11. -/
def channelDecode (h l : BitVec 1) (ii : BitVec 2) : BitVec 4 :=
  (h.setWidth 4 <<< 3) ||| (l.setWidth 4 <<< 1) ||| ii.setWidth 4

/-- The 8-bit channel (45_scanout.md R152): the 4-bit value in both nibbles. -/
def channelByte (c : BitVec 4) : Byte := (c ++ c : BitVec (4 + 4))

/-- One RGBA pixel (45_scanout.md R138, R139). -/
structure Rgba where
  r : Byte
  g : Byte
  b : Byte
  a : Byte
deriving DecidableEq, Repr

/-- The colour of a palette byte (45_scanout.md R150 to R153, 30_encoding.md R61); alpha is always 255. -/
def paletteColour (p : Byte) : Rgba where
  r := channelByte (channelDecode (p.extractLsb' 7 1) (p.extractLsb' 6 1) (p.extractLsb' 0 2))
  g := channelByte (channelDecode (p.extractLsb' 5 1) (p.extractLsb' 4 1) (p.extractLsb' 0 2))
  b := channelByte (channelDecode (p.extractLsb' 3 1) (p.extractLsb' 2 1) (p.extractLsb' 0 2))
  a := 255

/-- The colour of a video coordinate: tile lookup, pattern lookup and palette lookup (45_scanout.md R142 to R153). -/
def pixelAt (s : State) (vx vy : Scroll) : Rgba :=
  let tile := tileAddr (tileY s.textMode vy) (tileX vx)
  let patternByte := vramByte s .pattern (patternAddr (vramByte s .name tile) vx vy)
  let nibble := pixelNibble vy patternByte
  paletteColour (vramByte s .palette (paletteAddr (palettePage s.textMode vy) (vramByte s .color tile) nibble))

/-- `Pixel(S, X, Y)` (45_scanout.md R154). -/
def pixel (s : State) (x y : Nat) : Rgba := pixelAt s (videoX s x) (videoY s y)

/-- The byte of a pixel at a place of its four (45_scanout.md R139): R, G, B, A. -/
def Rgba.channel (c : Rgba) : Nat → Byte
  | 0 => c.r
  | 1 => c.g
  | 2 => c.b
  | _ => c.a

/-- The framebuffer byte at an offset (45_scanout.md R136, R139): pixel (X, Y) at `4*(Y*640+X)`. -/
def renderByte (s : State) (i : Nat) : Byte :=
  (pixel s (i / 4 % Config.screenW) (i / 4 / Config.screenW)).channel (i % 4)

/-- `Render(S)` (45_scanout.md R136, R154). -/
def render (s : State) : Framebuffer := Vector.ofFn fun i => renderByte s i.val

/-- The redraw scheduler's step (45_scanout.md R135 to R137): the pass and the clearing of `dirty`, only while it is set. -/
def redrawStep (s : State) : State :=
  if s.dirty then { s with fb := render s, dirty := false } else s

end Sys2Proof.Machine
end

