-- ==== Sys2Proof/Machine/Schedule.lean ====
section
/-! DEFINITION. The agents' steps in the one sequence of 20_memory.md R42: what each stimulus does, the step that takes
the oldest pending one, and how a transaction is placed to come next. Written for every port map and every scancode
table, since the spec leaves both open (30_encoding.md R54, 43_serial_fifo.md R116). -/

namespace Sys2Proof.Machine

/-- One agent's indivisible step (20_memory.md R40, R41). -/
def perform (pm : PortMap) (table : ScancodeTable) (e : Stimulus) (s : State) : Host.Outcome State Fault Refusal :=
  match e with
  | .transaction op => exec (decodeWith pm op) s
  | .redraw => .next (redrawStep s)
  | .keyEvent k t => .next (keyEventStep table k t s)

/-- The next step of the sequence: the oldest pending stimulus leaves the schedule and is performed. With none pending the
environment issues nothing and nothing changes (60_exceptions.md R173; DESIGN CHOICE, log 4). -/
def stepWith (pm : PortMap) (table : ScancodeTable) (s : State) : Host.Outcome State Fault Refusal :=
  match s.pending with
  | [] => .next s
  | e :: rest => perform pm table e { s with pending := rest }

/-- Put a stimulus before every pending one, so that the very next step performs it. -/
def issue (e : Stimulus) (s : State) : State := { s with pending := e :: s.pending }

/-- Issue the transaction of an opcode-table word; a number that is no transaction word issues nothing. -/
def issueTableWord (nbits w : Nat) (s : State) : State :=
  match tableTransaction nbits w with
  | some op => issue (.transaction op) s
  | none => s

end Sys2Proof.Machine
end

