-- ==== Sys2Proof/Machine/Step.lean ====
section
/-! DEFINITION. The step of the machine, under the reference port map and the hardware's scancode table, and the placing
of an instruction where the next step finds it. -/

namespace Sys2Proof.Machine

/-- One step (20_memory.md R42): `stepWith` at the port map of Decode.lean (log 1) and the open scancode table (log 12). -/
def step (s : State) : Host.Outcome State Fault Refusal := stepWith portMap Config.scancodeTable s

/-- `s` with the transaction of an opcode-table word issued before every pending stimulus (log 3). The block fetches no
instructions (10_state.md R23), so issuing stands for the CPU's port bus. -/
def State.withFetchWord (s : State) (nbits w : Nat) : State := issueTableWord nbits w s

end Sys2Proof.Machine
end

