-- ==== Sys2Proof/Machine/PixelSteps.lean ====
section
/-! DEFINITION. The pixel function a second time, step by step in unbounded arithmetic as 45_scanout.md R140 to R152 give
it (shifts, masks, remainders), beside the bit-field form of R154 that Machine/Scanout.lean uses. It is what the claims
compare the model's pixel with. -/

namespace Sys2Proof.Machine

/-- `videoX` and `videoY` (45_scanout.md R140, R141), with the offsets written out. -/
def stepsVideoX (s : State) (x : Nat) : Nat := ((if s.zoomX then x / 2 + 2 else x + 3) + s.scrollX.toNat) % 1024

/-- 45_scanout.md R141, for a given `ZOOM_Y_OFFSET`. -/
def stepsVideoY (zoomYOffset : Nat) (s : State) (y : Nat) : Nat :=
  ((if s.zoomY then y / 2 + zoomYOffset else y + 4) + s.scrollY.toNat) % 1024

/-- 45_scanout.md R142. -/
def stepsTileX (vx : Nat) : Nat := (vx >>> 3) &&& 0x7F

/-- 45_scanout.md R143. -/
def stepsTileY (textMode : Bool) (vy : Nat) : Nat :=
  if textMode then (((vy >>> 3) &&& 0x3F) &&& 0x3E) ||| (vy >>> 9) else (vy >>> 3) &&& 0x3F

/-- 45_scanout.md R144. -/
def stepsTileAddr (textMode : Bool) (vx vy : Nat) : Nat := stepsTileX vx ||| (stepsTileY textMode vy <<< 7)

/-- 45_scanout.md R145. -/
def stepsPatternAddr (nameByte vx vy : Nat) : Nat := (vx &&& 7) ||| (((vy &&& 7) &&& 6) <<< 2) ||| (nameByte <<< 5)

/-- 45_scanout.md R146. -/
def stepsNibble (vy patternByte : Nat) : Nat := if (vy &&& 7) % 2 = 0 then patternByte % 16 else patternByte / 16

/-- 45_scanout.md R147. -/
def stepsPage (textMode : Bool) (vy : Nat) : Nat := if textMode then (vy >>> 3) % 2 else vy >>> 9

/-- 45_scanout.md R148. -/
def stepsPaletteAddr (page colorByte nibble : Nat) : Nat := nibble ||| (colorByte <<< 4) ||| (page <<< 12)

/-- 45_scanout.md R150 to R152 for the channel whose low bit is bit `lo` of the palette byte. -/
def stepsChannel (p lo : Nat) : Nat := 17 * ((((p >>> (lo + 1)) % 2) <<< 3) ||| (((p >>> lo) % 2) <<< 1) ||| (p % 4))

/-- The VRAM byte at an index of a bank, the bank by its number: the byte at `(b << 13) | i` (20_memory.md R31). -/
def stepsVram (s : State) (b i : Nat) : Nat := (memRead s.vram ((b <<< 13) ||| i)).toNat

/-- The palette byte of a screen coordinate (45_scanout.md R140 to R149). -/
def stepsPaletteByte (zoomYOffset : Nat) (s : State) (x y : Nat) : Nat :=
  let vx := stepsVideoX s x
  let vy := stepsVideoY zoomYOffset s y
  let tile := stepsTileAddr s.textMode vx vy
  let patternByte := stepsVram s 2 (stepsPatternAddr (stepsVram s 0 tile) vx vy)
  stepsVram s 3 (stepsPaletteAddr (stepsPage s.textMode vy) (stepsVram s 1 tile) (stepsNibble vy patternByte))

end Sys2Proof.Machine
end

