-- ==== Sys2Proof/Machine/Run.lean ====
section
/-! DEFINITION. Sequences: a CPU program as the list of transactions it issues (00_scope.md R8, 95_test_vectors.md L3), and
a run of the whole sequence of agents' steps (20_memory.md R42). -/

namespace Sys2Proof.Machine

/-- Run a sequence of instructions, stopping at the first that does not answer a next state. -/
def execAll : List Instr → State → Host.Outcome State Fault Refusal
  | [], s => .next s
  | i :: is, s =>
    match exec i s with
    | .next t => execAll is t
    | .fault r => .fault r
    | .refused r => .refused r

/-- Perform a sequence of stimuli, stopping at the first that does not answer a next state. -/
def performAll (pm : PortMap) (table : ScancodeTable) : List Stimulus → State → Host.Outcome State Fault Refusal
  | [], s => .next s
  | e :: es, s =>
    match perform pm table e s with
    | .next t => performAll pm table es t
    | .fault r => .fault r
    | .refused r => .refused r

end Sys2Proof.Machine
end

