-- ==== Sys2Proof/Machine/WideLatch.lean ====
section
/-! DEFINITION. The other reading of the latch (41_latch.md R84, 90_conflicts.md C6): a 16-bit value, truncated to 13
bits when it is used. The claims show that no bank access can tell it from the 13-bit latch of the state. -/

namespace Sys2Proof.Machine

/-- The wide latch advanced by one access (41_latch.md R84). -/
def wideIncrement (w : BitVec 16) : BitVec 16 := BitVec.ofNat 16 ((w.toNat % 8192 + 1) % 8192)

/-- The wide latch after an instruction (41_latch.md R84): the two latch writes, and the increment of the auto-increment
accesses; every other instruction leaves it. -/
def wideLatchAfter (i : Instr) (w : BitVec 16) : BitVec 16 :=
  match i with
  | .outLatchLo v => (w &&& 0xFF00) ||| v.setWidth 16
  | .outLatchHi v => (w &&& 0x00FF) ||| (v.setWidth 16 <<< 8)
  | .outScrollxLo _ => w
  | .inScrollxLo => w
  | .outScrollyLo _ => w
  | .inScrollyLo => w
  | .outControl _ => w
  | .inControl => w
  | .inLatchLo => w
  | .inLatchHi => w
  | .outName _ => w
  | .inName => w
  | .outColor _ => w
  | .inColor => w
  | .outPattern _ => w
  | .inPattern => w
  | .outPalette _ => w
  | .inPalette => w
  | .outNameInc _ => wideIncrement w
  | .inNameInc => wideIncrement w
  | .outColorInc _ => wideIncrement w
  | .inColorInc => wideIncrement w
  | .outPatternInc _ => wideIncrement w
  | .inPatternInc => wideIncrement w
  | .outPaletteInc _ => wideIncrement w
  | .inPaletteInc => wideIncrement w
  | .outSerPop _ => w
  | .inSerPop => w
  | .outSerStatus _ => w
  | .inSerStatus => w
  | .outUnmapped _ _ => w
  | .inUnmapped _ => w

/-- The wide latch after a sequence of instructions. -/
def wideLatchAfterAll (is : List Instr) (w : BitVec 16) : BitVec 16 := is.foldl (fun w i => wideLatchAfter i w) w

end Sys2Proof.Machine
end

