-- ==== Sys2Proof/Safety.lean ====
section
/-! DEFINITION. The vocabulary of the claims: what counts as a good state, what two states share, and which transaction
forms have a property the spec's prose names. -/

namespace Sys2Proof.Safety

open Sys2Proof.Machine

/-- The framebuffer is a current picture unless `dirty` says otherwise (20_memory.md R46). -/
def Coherent (s : State) : Prop := s.dirty = false → s.fb = render s

/-- The ten elements of the block's state (10_state.md R10) are the same; the model's own fields may differ. -/
def SameBlock (s t : State) : Prop :=
  (t.scrollX = s.scrollX ∧ t.scrollY = s.scrollY ∧ t.zoomX = s.zoomX ∧ t.zoomY = s.zoomY ∧ t.textMode = s.textMode) ∧
  (t.latch = s.latch ∧ t.vram = s.vram ∧ t.dirty = s.dirty ∧ t.fifo = s.fifo ∧ t.fb = s.fb)

/-- The instruction the CPU issues in a stimulus, if it is the CPU's. -/
def cpuInstr (pm : PortMap) : Stimulus → Option Instr
  | .transaction op => some (decodeWith pm op)
  | .redraw => none
  | .keyEvent _ _ => none

/-- The bytes a stimulus appends to the FIFO (43_serial_fifo.md R115). -/
def hostBytes (table : ScancodeTable) : Stimulus → List Byte
  | .transaction _ => []
  | .redraw => []
  | .keyEvent k t => keyBytes table k t

/-- `r`'s OUT form is `mk` (30_encoding.md R53, R55): under every injective port map, and at the reference map's port as
the transaction word `0x1ppvv` (R51, R54). -/
def OutForm (r : Role) (port : Byte) (mk : Byte → Instr) : Prop :=
  (∀ pm : PortMap, Function.Injective pm → ∀ v, decodeWith pm (.write (pm r) v) = mk v) ∧
  ∀ v : Byte, decodeWord referencePortMap (1#1 ++ port ++ v : BitVec (1 + 8 + 8)) = mk v

/-- `r`'s IN form is `i` (30_encoding.md R53, R55): under every injective port map, and at the reference map's port as the
transaction word `0x0pp..`, whatever its data bits are. -/
def InForm (r : Role) (port : Byte) (i : Instr) : Prop :=
  (∀ pm : PortMap, Function.Injective pm → decodeWith pm (.read (pm r)) = i) ∧
  ∀ d : Byte, decodeWord referencePortMap (0#1 ++ port ++ d : BitVec (1 + 8 + 8)) = i

/-- The auto-increment forms (00_scope.md R9, 42_vram_access.md R97 to R100, R105 to R108). -/
def autoIncrement : Instr → Bool
  | .outScrollxLo _ => false
  | .inScrollxLo => false
  | .outScrollyLo _ => false
  | .inScrollyLo => false
  | .outControl _ => false
  | .inControl => false
  | .outLatchLo _ => false
  | .inLatchLo => false
  | .outLatchHi _ => false
  | .inLatchHi => false
  | .outName _ => false
  | .inName => false
  | .outColor _ => false
  | .inColor => false
  | .outPattern _ => false
  | .inPattern => false
  | .outPalette _ => false
  | .inPalette => false
  | .outNameInc _ => true
  | .inNameInc => true
  | .outColorInc _ => true
  | .inColorInc => true
  | .outPatternInc _ => true
  | .inPatternInc => true
  | .outPaletteInc _ => true
  | .inPaletteInc => true
  | .outSerPop _ => false
  | .inSerPop => false
  | .outSerStatus _ => false
  | .inSerStatus => false
  | .outUnmapped _ _ => false
  | .inUnmapped _ => false

/-- The bank an OUT bank form stores to, and the byte it stores (42_vram_access.md R90, R91). -/
def bankStore : Instr → Option (Bank × Byte)
  | .outScrollxLo _ => none
  | .inScrollxLo => none
  | .outScrollyLo _ => none
  | .inScrollyLo => none
  | .outControl _ => none
  | .inControl => none
  | .outLatchLo _ => none
  | .inLatchLo => none
  | .outLatchHi _ => none
  | .inLatchHi => none
  | .outName v => some (.name, v)
  | .inName => none
  | .outColor v => some (.color, v)
  | .inColor => none
  | .outPattern v => some (.pattern, v)
  | .inPattern => none
  | .outPalette v => some (.palette, v)
  | .inPalette => none
  | .outNameInc v => some (.name, v)
  | .inNameInc => none
  | .outColorInc v => some (.color, v)
  | .inColorInc => none
  | .outPatternInc v => some (.pattern, v)
  | .inPatternInc => none
  | .outPaletteInc v => some (.palette, v)
  | .inPaletteInc => none
  | .outSerPop _ => none
  | .inSerPop => none
  | .outSerStatus _ => none
  | .inSerStatus => none
  | .outUnmapped _ _ => none
  | .inUnmapped _ => none

/-- The reads without side effects (20_memory.md R37): every IN form but the auto-increment bank reads and `IN SER_POP`. -/
def plainRead : Instr → Bool
  | .outScrollxLo _ => false
  | .inScrollxLo => true
  | .outScrollyLo _ => false
  | .inScrollyLo => true
  | .outControl _ => false
  | .inControl => true
  | .outLatchLo _ => false
  | .inLatchLo => true
  | .outLatchHi _ => false
  | .inLatchHi => true
  | .outName _ => false
  | .inName => true
  | .outColor _ => false
  | .inColor => true
  | .outPattern _ => false
  | .inPattern => true
  | .outPalette _ => false
  | .inPalette => true
  | .outNameInc _ => false
  | .inNameInc => false
  | .outColorInc _ => false
  | .inColorInc => false
  | .outPatternInc _ => false
  | .inPatternInc => false
  | .outPaletteInc _ => false
  | .inPaletteInc => false
  | .outSerPop _ => false
  | .inSerPop => false
  | .outSerStatus _ => false
  | .inSerStatus => true
  | .outUnmapped _ _ => false
  | .inUnmapped _ => true

/-- The byte written to the low half of `scrollX`, if the instruction writes it (30_encoding.md R58). -/
def scrollXLowWritten : Instr → Option Byte
  | .outScrollxLo v => some v
  | .inScrollxLo => none
  | .outScrollyLo _ => none
  | .inScrollyLo => none
  | .outControl _ => none
  | .inControl => none
  | .outLatchLo _ => none
  | .inLatchLo => none
  | .outLatchHi _ => none
  | .inLatchHi => none
  | .outName _ => none
  | .inName => none
  | .outColor _ => none
  | .inColor => none
  | .outPattern _ => none
  | .inPattern => none
  | .outPalette _ => none
  | .inPalette => none
  | .outNameInc _ => none
  | .inNameInc => none
  | .outColorInc _ => none
  | .inColorInc => none
  | .outPatternInc _ => none
  | .inPatternInc => none
  | .outPaletteInc _ => none
  | .inPaletteInc => none
  | .outSerPop _ => none
  | .inSerPop => none
  | .outSerStatus _ => none
  | .inSerStatus => none
  | .outUnmapped _ _ => none
  | .inUnmapped _ => none

/-- The byte written to the low half of `scrollY`, if the instruction writes it (30_encoding.md R58). -/
def scrollYLowWritten : Instr → Option Byte
  | .outScrollxLo _ => none
  | .inScrollxLo => none
  | .outScrollyLo v => some v
  | .inScrollyLo => none
  | .outControl _ => none
  | .inControl => none
  | .outLatchLo _ => none
  | .inLatchLo => none
  | .outLatchHi _ => none
  | .inLatchHi => none
  | .outName _ => none
  | .inName => none
  | .outColor _ => none
  | .inColor => none
  | .outPattern _ => none
  | .inPattern => none
  | .outPalette _ => none
  | .inPalette => none
  | .outNameInc _ => none
  | .inNameInc => none
  | .outColorInc _ => none
  | .inColorInc => none
  | .outPatternInc _ => none
  | .inPatternInc => none
  | .outPaletteInc _ => none
  | .inPaletteInc => none
  | .outSerPop _ => none
  | .inSerPop => none
  | .outSerStatus _ => none
  | .inSerStatus => none
  | .outUnmapped _ _ => none
  | .inUnmapped _ => none

/-- The control byte written, if the instruction writes it (30_encoding.md R58). -/
def controlWritten : Instr → Option Byte
  | .outScrollxLo _ => none
  | .inScrollxLo => none
  | .outScrollyLo _ => none
  | .inScrollyLo => none
  | .outControl v => some v
  | .inControl => none
  | .outLatchLo _ => none
  | .inLatchLo => none
  | .outLatchHi _ => none
  | .inLatchHi => none
  | .outName _ => none
  | .inName => none
  | .outColor _ => none
  | .inColor => none
  | .outPattern _ => none
  | .inPattern => none
  | .outPalette _ => none
  | .inPalette => none
  | .outNameInc _ => none
  | .inNameInc => none
  | .outColorInc _ => none
  | .inColorInc => none
  | .outPatternInc _ => none
  | .inPatternInc => none
  | .outPaletteInc _ => none
  | .inPaletteInc => none
  | .outSerPop _ => none
  | .inSerPop => none
  | .outSerStatus _ => none
  | .inSerStatus => none
  | .outUnmapped _ _ => none
  | .inUnmapped _ => none

/-- The last byte that `f` finds in what the CPU issues along a schedule, if there is one. -/
def lastWritten (pm : PortMap) (f : Instr → Option Byte) (es : List Stimulus) : Option Byte :=
  ((es.filterMap (cpuInstr pm)).filterMap f).getLast?

/-- The latch after an instruction, in plain arithmetic (30_encoding.md R59, 42_vram_access.md R92). -/
def latchAfter (i : Instr) (l : Nat) : Nat :=
  match i with
  | .outScrollxLo _ => l
  | .inScrollxLo => l
  | .outScrollyLo _ => l
  | .inScrollyLo => l
  | .outControl _ => l
  | .inControl => l
  | .outLatchLo v => l / 256 * 256 + v.toNat
  | .inLatchLo => l
  | .outLatchHi v => v.toNat % 32 * 256 + l % 256
  | .inLatchHi => l
  | .outName _ => l
  | .inName => l
  | .outColor _ => l
  | .inColor => l
  | .outPattern _ => l
  | .inPattern => l
  | .outPalette _ => l
  | .inPalette => l
  | .outNameInc _ => (l + 1) % 8192
  | .inNameInc => (l + 1) % 8192
  | .outColorInc _ => (l + 1) % 8192
  | .inColorInc => (l + 1) % 8192
  | .outPatternInc _ => (l + 1) % 8192
  | .inPatternInc => (l + 1) % 8192
  | .outPaletteInc _ => (l + 1) % 8192
  | .inPaletteInc => (l + 1) % 8192
  | .outSerPop _ => l
  | .inSerPop => l
  | .outSerStatus _ => l
  | .inSerStatus => l
  | .outUnmapped _ _ => l
  | .inUnmapped _ => l

/-- How many `IN SER_POP` the CPU issues along a schedule. -/
def popCount (pm : PortMap) (es : List Stimulus) : Nat := (es.filterMap (cpuInstr pm)).count .inSerPop

/-- A direct write form of bank `b` (42_vram_access.md R91, R93 to R96): the byte goes to the bank's byte at the latch and
to no other address, `dirty` is set if the byte changed, all else stays; and a write of the byte already there changes no
state at all. -/
def DirectWrite (b : Bank) (mk : Byte → Instr) : Prop :=
  (∀ v s, ∃ m : Memory,
    exec (mk v) s = .next { s with vram := m, dirty := if vramByte s b s.latch = v then s.dirty else true } ∧
    ∀ a, memRead m a = if a = (vramAddr b s.latch).toNat then v else memRead s.vram a) ∧
  ∀ s, Memory.wf s.vram → exec (mk (vramByte s b s.latch)) s = .next s

/-- An auto-increment write form of bank `b` (42_vram_access.md R97 to R100): the store of the direct form at the latch
before it advances, then the latch plus one modulo 8192, for an equal byte too. -/
def IncWrite (b : Bank) (mk : Byte → Instr) : Prop :=
  (∀ v s, ∃ m : Memory,
    exec (mk v) s = .next { s with vram := m, dirty := if vramByte s b s.latch = v then s.dirty else true,
                                   latch := BitVec.ofNat 13 ((s.latch.toNat + 1) % 8192) } ∧
    ∀ a, memRead m a = if a = (vramAddr b s.latch).toNat then v else memRead s.vram a) ∧
  ∀ s, Memory.wf s.vram →
    exec (mk (vramByte s b s.latch)) s = .next { s with latch := BitVec.ofNat 13 ((s.latch.toNat + 1) % 8192) }

/-- A direct read form of bank `b` (42_vram_access.md R101 to R104): the byte at the latch is returned; no state is
written. -/
def DirectRead (b : Bank) (i : Instr) : Prop :=
  ∀ s, exec i s = .next { s with delivered := memRead s.vram (vramAddr b s.latch).toNat :: s.delivered }

/-- An auto-increment read form of bank `b` (42_vram_access.md R105 to R108): the byte at the latch before the increment
is returned, then the latch advances modulo 8192. -/
def IncRead (b : Bank) (i : Instr) : Prop :=
  ∀ s, exec i s = .next { s with delivered := memRead s.vram (vramAddr b s.latch).toNat :: s.delivered,
                                 latch := BitVec.ofNat 13 ((s.latch.toNat + 1) % 8192) }

/-- A read of a write-only role (40_video_registers.md R73): some byte is returned, and no state of the block is written
(`draws` counts the free value as taken; log 6). -/
def OpenRead (i : Instr) : Prop :=
  ∀ s, ∃ x : Byte, exec i s = .next { s with delivered := x :: s.delivered, draws := s.draws + 1 }

/-- `f` has its value at `s` throughout a schedule from `s`: no step of it changes what `f` reads. -/
def UnchangedAlong {α : Type} (f : State → α) (pm : PortMap) (table : ScancodeTable) (es : List Stimulus) (s : State) :
    Prop :=
  ∀ n, ∃ t, performAll pm table (es.take n) s = .next t ∧ f t = f s

/-- The read `i` returns `v` to the CPU. -/
def Returns (i : Instr) (s : State) (v : Byte) : Prop := ∃ t, exec i s = .next t ∧ t.delivered = v :: s.delivered

/-- The read `i` returns the same byte after a schedule as before it (20_memory.md R38). -/
def ReadsAgain (i : Instr) (pm : PortMap) (table : ScancodeTable) (es : List Stimulus) (s : State) : Prop :=
  ∃ t v, performAll pm table es s = .next t ∧ Returns i s v ∧ Returns i t v

end Sys2Proof.Safety
end

