-- ==== Sys2Proof/Certificates/Slice0/Obligations.lean ====
section
/-! DEFINITION. The statements for the provers, from the numbered rules of spec/. A statement that an instruction answers
`{ s with … }` is a result and a whole frame at once: every field not named is unchanged. -/

open Sys2Proof Sys2Proof.Machine Sys2Proof.Safety

/-! ## Reset -/

/-- 70_reset_and_hazards.md R180: registers, flags and latch 0, the FIFO empty, every VRAM byte its VRAM_INIT byte and
every framebuffer byte its FB_INIT byte. That `dirty` is 1 is the spec's own decision D11 (log 13), and the empty schedule
and empty output are the model's choice (logs 3, 5). -/
def Obligations.ResetState : Prop :=
  (State.reset.scrollX = 0 ∧ State.reset.scrollY = 0 ∧ State.reset.zoomX = false ∧ State.reset.zoomY = false ∧
    State.reset.textMode = false ∧ State.reset.latch = 0 ∧ State.reset.dirty = true ∧ State.reset.fifo = []) ∧
  (∀ b i, vramByte State.reset b i = Config.vramInit ((bankNumber b).toNat * 8192 + i.toNat)) ∧
  (∀ n, n < 1228800 → State.reset.fb[n]? = some (Config.fbInit n)) ∧
  State.reset.pending = [] ∧ State.reset.delivered = []

/-! ## Decoding -/

/-- 30_encoding.md R55: a transaction at the port of a role is that role's transaction in its direction, and one at a port
of no role is the unmapped-port transaction, under every injective port map (R54). -/
def Obligations.PortDecodeSelectsRole : Prop :=
  ∀ pm : PortMap, Function.Injective pm → ∀ p v : Byte,
    (∀ r, p = pm r → decodeWith pm (.write p v) = r.outInstr v ∧ decodeWith pm (.read p) = r.inInstr) ∧
    ((∀ r, p ≠ pm r) → decodeWith pm (.write p v) = .outUnmapped p v ∧ decodeWith pm (.read p) = .inUnmapped p)

/-- Words of 30_encoding.md R51 with R54's reference map, from 95_test_vectors.md: one or two of each family. -/
def Obligations.ReferenceWordsDecode : Prop :=
  decodeWord referencePortMap 0x100FF = .outScrollxLo 0xFF ∧ decodeWord referencePortMap 0x102C5 = .outControl 0xC5 ∧
  decodeWord referencePortMap 0x00200 = .inControl ∧ decodeWord referencePortMap 0x10334 = .outLatchLo 0x34 ∧
  decodeWord referencePortMap 0x10412 = .outLatchHi 0x12 ∧ decodeWord referencePortMap 0x10643 = .outColor 0x43 ∧
  decodeWord referencePortMap 0x10C5A = .outPaletteInc 0x5A ∧ decodeWord referencePortMap 0x00B00 = .inPatternInc ∧
  decodeWord referencePortMap 0x00D00 = .inSerPop ∧ decodeWord referencePortMap 0x00E00 = .inSerStatus ∧
  decodeWord referencePortMap 0x10F99 = .outUnmapped 0x0F 0x99 ∧ decodeWord referencePortMap 0x08000 = .inUnmapped 0x80

/-- Decode of encode is the instruction, for every instruction well formed under any injective port map, with every
operand (30_encoding.md R51, R55). -/
def Obligations.DecodeOfEncode : Prop :=
  ∀ pm : PortMap, Function.Injective pm → ∀ i : Instr, i.wellFormedFor pm = true → decodeWord pm (encodeWord pm i) = i

/-- Encode of decode is the word, an IN word's ignored data bits cleared (30_encoding.md R51), and what a word decodes to
is well formed, under every port map. -/
def Obligations.EncodeOfDecode : Prop :=
  ∀ (pm : PortMap) (w : TransactionWord),
    (decodeWord pm w).wellFormedFor pm = true ∧
    (encodeWord pm (decodeWord pm w)).toNat = if w.toNat < 65536 then w.toNat / 256 * 256 else w.toNat

/-! ## Steps -/

/-- A step with a transaction pending first is `exec` of the instruction it decodes to, on the state with that transaction
taken off the schedule: nothing else is done around `exec` (20_memory.md R41, R42; the schedule is the model's, log 3). -/
def Obligations.StepRunsDecodedTransaction : Prop :=
  ∀ (pm : PortMap) (table : ScancodeTable) (s : State) (op : PortOp) (rest : List Stimulus),
    s.pending = .transaction op :: rest →
    stepWith pm table s = exec (decodeWith pm op) { s with pending := rest }

/-- A transaction word placed by `withFetchWord` is what the very next `step` runs, and the schedule it was put before is
left as it was (the model's host interface, logs 2 and 3). -/
def Obligations.PlacedWordRunsNext : Prop :=
  ∀ (s : State) (w : TransactionWord),
    decodeTableWord 24 w.toNat = some (decodeWord portMap w) ∧
    step (s.withFetchWord 24 w.toNat) = exec (decodeWord portMap w) s

/-- 60_exceptions.md R160: no port transaction, redraw pass or key event faults, traps, stalls or reports an error, in any
state: every step answers a next state. -/
def Obligations.EveryStepAnswers : Prop :=
  ∀ (pm : PortMap) (table : ScancodeTable) (s : State), ∃ t, stepWith pm table s = .next t

/-! ## Video registers -/

/-- `OUT SCROLLX_LO` and `OUT SCROLLY_LO` (40_video_registers.md R70, R71): the byte replaces the low part, bits 9:8 are
kept. That `dirty` is set on every write is the spec's own decision D9 (log 14). -/
def Obligations.ScrollLowWrite : Prop :=
  (OutForm .scrollxLo 0x00 .outScrollxLo ∧ OutForm .scrollyLo 0x01 .outScrollyLo) ∧
  (∀ v s, exec (.outScrollxLo v) s =
    .next { s with scrollX := BitVec.ofNat 10 (s.scrollX.toNat / 256 * 256 + v.toNat), dirty := true }) ∧
  ∀ v s, exec (.outScrollyLo v) s =
    .next { s with scrollY := BitVec.ofNat 10 (s.scrollY.toNat / 256 * 256 + v.toNat), dirty := true }

/-- `OUT CONTROL` (40_video_registers.md R72, 30_encoding.md R56): each field of the byte to its destination, the low
parts kept, `dirty` set. That bit 3 of the byte has no effect is the spec's own decision D14 (log 16). -/
def Obligations.ControlWrite : Prop :=
  OutForm .control 0x02 .outControl ∧
  ∀ v s, exec (.outControl v) s = .next { s with
    scrollX := BitVec.ofNat 10 (v.toNat % 4 * 256 + s.scrollX.toNat % 256)
    zoomX := decide (v.toNat / 4 % 2 = 1)
    scrollY := BitVec.ofNat 10 (v.toNat / 16 % 4 * 256 + s.scrollY.toNat % 256)
    zoomY := decide (v.toNat / 64 % 2 = 1)
    textMode := decide (v.toNat / 128 = 1)
    dirty := true }

/-- Reads of the five write-only roles return some byte and write no state (40_video_registers.md R73 to R75, 41_latch.md
R82, R83; the spec's decision D6, log 6: the byte is a free value and this holds for every value of it). -/
def Obligations.WriteOnlyRolesRead : Prop :=
  (InForm .scrollxLo 0x00 .inScrollxLo ∧ InForm .scrollyLo 0x01 .inScrollyLo ∧ InForm .control 0x02 .inControl ∧
    InForm .latchLo 0x03 .inLatchLo ∧ InForm .latchHi 0x04 .inLatchHi) ∧
  OpenRead .inScrollxLo ∧ OpenRead .inScrollyLo ∧ OpenRead .inControl ∧ OpenRead .inLatchLo ∧ OpenRead .inLatchHi

/-- 30_encoding.md R58: along every schedule of the three agents, each part of each scroll offset is the byte last written
for it (bits 1:0 or 5:4 of the control byte for the high part), or what it was at the start, which is 0 at power-up. -/
def Obligations.ScrollIsWhatWasLastWritten : Prop :=
  (State.reset.scrollX = 0 ∧ State.reset.scrollY = 0) ∧
  ∀ (pm : PortMap) (table : ScancodeTable) (es : List Stimulus) (s : State), ∃ t,
    performAll pm table es s = .next t ∧
    t.scrollX.toNat % 256 = ((lastWritten pm scrollXLowWritten es).map BitVec.toNat).getD (s.scrollX.toNat % 256) ∧
    t.scrollX.toNat / 256 = ((lastWritten pm controlWritten es).map fun v => v.toNat % 4).getD (s.scrollX.toNat / 256) ∧
    t.scrollY.toNat % 256 = ((lastWritten pm scrollYLowWritten es).map BitVec.toNat).getD (s.scrollY.toNat % 256) ∧
    t.scrollY.toNat / 256 = ((lastWritten pm controlWritten es).map fun v => v.toNat / 16 % 4).getD (s.scrollY.toNat / 256)

/-- `SETVIDEO` (30_encoding.md R64, a pseudo-instruction by the spec's decision D4) sets the whole of the five fields. -/
def Obligations.SetVideoSetsFields : Prop :=
  ∀ sx sy zx zy tm s, execAll (setVideoProgram sx sy zx zy tm) s =
    .next { s with scrollX := sx, scrollY := sy, zoomX := zx, zoomY := zy, textMode := tm, dirty := true }

/-- Only `OUT CONTROL` writes the mode flags (10_state.md R13 to R15): no other step of any agent changes one. -/
def Obligations.ModeFlagsOnlyByControl : Prop :=
  ∀ (pm : PortMap) (table : ScancodeTable) (s t : State), stepWith pm table s = .next t →
    (t.zoomX ≠ s.zoomX ∨ t.zoomY ≠ s.zoomY ∨ t.textMode ≠ s.textMode) →
    ∃ op rest v, s.pending = .transaction op :: rest ∧ decodeWith pm op = .outControl v

/-! ## The latch -/

/-- `OUT LATCH_LO` and `OUT LATCH_HI` (41_latch.md R80, R81): the part written, the other kept, `v[7:5]` of the high byte
discarded, nothing else changed. That `dirty` is not is the spec's own decision D10 (log 15). -/
def Obligations.LatchWrite : Prop :=
  (OutForm .latchLo 0x03 .outLatchLo ∧ OutForm .latchHi 0x04 .outLatchHi) ∧
  (∀ v s, exec (.outLatchLo v) s = .next { s with latch := BitVec.ofNat 13 (s.latch.toNat / 256 * 256 + v.toNat) }) ∧
  ∀ v s, exec (.outLatchHi v) s =
    .next { s with latch := BitVec.ofNat 13 (v.toNat % 32 * 256 + s.latch.toNat % 256) }

/-- 30_encoding.md R59: the low part is set by `OUT LATCH_LO`, the high part by bits 4:0 of `OUT LATCH_HI`, both parts
change together only by the auto-increment, and no other transaction, redraw pass or key event changes the latch. -/
def Obligations.LatchChangesOnlyAsAssembled : Prop :=
  (∀ i s, ∃ t, exec i s = .next t ∧ t.latch.toNat = latchAfter i s.latch.toNat) ∧
  ∀ (pm : PortMap) (table : ScancodeTable) (s t : State), stepWith pm table s = .next t → t.latch ≠ s.latch →
    ∃ op rest, s.pending = .transaction op :: rest ∧ t.latch.toNat = latchAfter (decodeWith pm op) s.latch.toNat

/-- `SETLATCH a` (30_encoding.md R64, decision D4) leaves the latch at `a` and all else unchanged, in either order of its
two writes. -/
def Obligations.SetLatchEitherOrder : Prop :=
  ∀ a s, execAll (setLatchProgram a) s = .next { s with latch := a } ∧
    execAll (setLatchProgram a).reverse s = .next { s with latch := a }

/-- After n auto-increment accesses from latch value a, the latch is (a + n) mod 8192 (70_reset_and_hazards.md R185). -/
def Obligations.AutoIncrementRun : Prop :=
  ∀ (is : List Instr) (s : State), (∀ i ∈ is, autoIncrement i = true) →
    ∃ t, execAll is s = .next t ∧ t.latch.toNat = (s.latch.toNat + is.length) % 8192

/-- The 13-bit latch and the 16-bit latch truncated on use cannot be told apart (41_latch.md R84): after every sequence of
transactions the wide one modulo 8192 is the latch. -/
def Obligations.WideLatchCannotBeToldApart : Prop :=
  ∀ (is : List Instr) (w : BitVec 16) (s : State), w.toNat % 8192 = s.latch.toNat →
    ∃ t, execAll is s = .next t ∧ (wideLatchAfterAll is w).toNat % 8192 = t.latch.toNat

/-! ## VRAM -/

/-- VRAM addresses (20_memory.md R31, notation of decision D26): bank times 8192 plus index, below 32768, and different
bytes at different addresses. -/
def Obligations.PhysicalAddresses : Prop :=
  (∀ b i, (vramAddr b i).toNat = (bankNumber b).toNat * 8192 + i.toNat ∧ (vramAddr b i).toNat < 32768) ∧
  ∀ b c i j, vramAddr b i = vramAddr c j → b = c ∧ i = j

/-- 42_vram_access.md R91, R93 to R96: the four direct writes, each to its own bank (R90) at the latch. -/
def Obligations.DirectBankWrite : Prop :=
  (OutForm .name 0x05 .outName ∧ OutForm .color 0x06 .outColor ∧ OutForm .pattern 0x07 .outPattern ∧
    OutForm .palette 0x08 .outPalette) ∧
  DirectWrite .name .outName ∧ DirectWrite .color .outColor ∧ DirectWrite .pattern .outPattern ∧
  DirectWrite .palette .outPalette

/-- The four auto-increment writes (42_vram_access.md R97 to R100). That the advance of the latch leaves `dirty` as it was,
which the equal-byte clause and the value of `dirty` say, is the spec's own decision D10 (log 15). -/
def Obligations.IncBankWrite : Prop :=
  (OutForm .nameInc 0x09 .outNameInc ∧ OutForm .colorInc 0x0A .outColorInc ∧ OutForm .patternInc 0x0B .outPatternInc ∧
    OutForm .paletteInc 0x0C .outPaletteInc) ∧
  IncWrite .name .outNameInc ∧ IncWrite .color .outColorInc ∧ IncWrite .pattern .outPatternInc ∧
  IncWrite .palette .outPaletteInc

/-- The four direct reads (42_vram_access.md R101 to R104): the byte at the latch is returned and no state is written; an
address with no cell in the memory, whatever that memory holds elsewhere, reads as its VRAM_INIT byte (open, log 8). -/
def Obligations.DirectBankRead : Prop :=
  (InForm .name 0x05 .inName ∧ InForm .color 0x06 .inColor ∧ InForm .pattern 0x07 .inPattern ∧
    InForm .palette 0x08 .inPalette) ∧
  (DirectRead .name .inName ∧ DirectRead .color .inColor ∧ DirectRead .pattern .inPattern ∧
    DirectRead .palette .inPalette) ∧
  ∀ (m : Memory) a, (∀ c ∈ m, c.1 ≠ a) → memRead m a = Config.vramInit a

/-- The four auto-increment reads (42_vram_access.md R105 to R108): the byte at the latch before the increment is returned;
an address with no cell in the memory reads as its VRAM_INIT byte (open, log 8). That the advance of the latch leaves
`dirty` as it was is the spec's own decision D10 (log 15). -/
def Obligations.IncBankRead : Prop :=
  (InForm .nameInc 0x09 .inNameInc ∧ InForm .colorInc 0x0A .inColorInc ∧ InForm .patternInc 0x0B .inPatternInc ∧
    InForm .paletteInc 0x0C .inPaletteInc) ∧
  (IncRead .name .inNameInc ∧ IncRead .color .inColorInc ∧ IncRead .pattern .inPatternInc ∧
    IncRead .palette .inPaletteInc) ∧
  ∀ (m : Memory) a, (∀ c ∈ m, c.1 ≠ a) → memRead m a = Config.vramInit a

/-- A bank read after a bank write at the same bank and latch value returns the written byte (20_memory.md R48), for each
bank, by the direct and by the auto-increment read. -/
def Obligations.BankReadAfterWrite : Prop :=
  ∀ wr ∈ [(Instr.outName, Instr.inName, Instr.inNameInc), (.outColor, .inColor, .inColorInc),
      (.outPattern, .inPattern, .inPatternInc), (.outPalette, .inPalette, .inPaletteInc)],
    ∀ v s, (∃ t, execAll [wr.1 v, wr.2.1] s = .next t ∧ t.delivered = v :: s.delivered) ∧
      ∃ t, execAll [wr.1 v, wr.2.2] s = .next t ∧ t.delivered = v :: s.delivered

/-- The consequence of the shared latch in 42_vram_access.md R109: `SETLATCH i`, `OUT NAME, n`, `OUT COLOR_INC, c` stores
the name and color bytes of tile `i` and leaves the latch at `i + 1`; nothing else in VRAM changes. -/
def Obligations.TileStoreSequence : Prop :=
  ∀ (i : Index) (n c : Byte) (s : State), ∃ t,
    execAll (setLatchProgram i ++ [.outName n, .outColorInc c]) s = .next t ∧
    t.latch.toNat = (i.toNat + 1) % 8192 ∧
    ∀ b j, vramByte t b j =
      if b = .name ∧ j = i then n else if b = .color ∧ j = i then c else vramByte s b j

/-- VRAM changes only by an OUT bank transaction, and only at the byte of its bank at the latch (20_memory.md R47,
10_state.md R22): no other step changes any byte. -/
def Obligations.VramOnlyByBankWrite : Prop :=
  ∀ (pm : PortMap) (table : ScancodeTable) (s t : State) (b : Bank) (j : Index), stepWith pm table s = .next t →
    vramByte t b j ≠ vramByte s b j →
    ∃ op rest, s.pending = .transaction op :: rest ∧ j = s.latch ∧
      bankStore (decodeWith pm op) = some (b, vramByte t b j)

/-- Every step keeps VRAM's canonical form. -/
def Obligations.MemoryFormKept : Prop :=
  ∀ (pm : PortMap) (table : ScancodeTable) (s t : State), Memory.wf s.vram → stepWith pm table s = .next t →
    Memory.wf t.vram

/-- VRAM has its canonical form at reset. -/
def Obligations.MemoryFormAtReset : Prop := Memory.wf State.reset.vram

/-! ## The FIFO and the keyboard -/

/-- 43_serial_fifo.md R111: the head is removed and returned; from an empty FIFO the sentinel 0x00, and no state
changes. The counter `fifoChanges` is the model's own (log 7), and nothing is claimed of its value after a removal. -/
def Obligations.SerialPop : Prop :=
  InForm .serPop 0x0D .inSerPop ∧
  (∀ s b q, s.fifo = b :: q → ∃ n,
    exec .inSerPop s = .next { s with fifo := q, delivered := b :: s.delivered, fifoChanges := n }) ∧
  ∀ s, s.fifo = [] → exec .inSerPop s = .next { s with delivered := 0x00 :: s.delivered }

/-- n pops return the FIFO's bytes in order and then the sentinel each time (43_serial_fifo.md R111, 95_test_vectors.md
L1-6). -/
def Obligations.PopsReturnFifoInOrder : Prop :=
  ∀ (n : Nat) (s : State), ∃ t, execAll (List.replicate n .inSerPop) s = .next t ∧ t.fifo = s.fifo.drop n ∧
    t.delivered = (s.fifo.take n ++ List.replicate (n - s.fifo.length) 0x00).reverse ++ s.delivered

/-- `IN SER_STATUS` (43_serial_fifo.md R112): 0x00 when the FIFO is empty, some non-zero byte when it is not (which one is
a free value by the spec's decision D8, log 7; when it may differ from read to read is RepeatedReadsAgree's), and no state
of the block is written. -/
def Obligations.SerialStatus : Prop :=
  InForm .serStatus 0x0E .inSerStatus ∧
  (∀ s, s.fifo = [] → exec .inSerStatus s = .next { s with delivered := 0x00 :: s.delivered }) ∧
  ∀ s, s.fifo ≠ [] →
    ∃ x : Byte, x ≠ 0 ∧ exec .inSerStatus s = .next { s with delivered := x :: s.delivered }

/-- Writes to the read-only roles change no state (43_serial_fifo.md R113, R114; the spec's decision D7, log 17). -/
def Obligations.ReadOnlyRolesWrite : Prop :=
  (OutForm .serPop 0x0D .outSerPop ∧ OutForm .serStatus 0x0E .outSerStatus) ∧
  ∀ v s, exec (.outSerPop v) s = .next s ∧ exec (.outSerStatus v) s = .next s

/-- 43_serial_fifo.md R115: a key event appends the press sequence, or the release sequence where the table has one, in
one step; an unknown key, and a release with no sequence, append nothing; nothing else changes. For every table.
The counter `fifoChanges` is the model's own (log 7), and nothing is claimed of its value where bytes are appended. -/
def Obligations.KeyEventAppends : Prop :=
  ∀ (pm : PortMap) (table : ScancodeTable) (s : State) (k : KeyId) (rest : List Stimulus),
    (∀ t, table k = none →
      stepWith pm table { s with pending := .keyEvent k t :: rest } = .next { s with pending := rest }) ∧
    (∀ e, table k = some e → ∃ n, stepWith pm table { s with pending := .keyEvent k .press :: rest } =
      .next { s with pending := rest, fifo := s.fifo ++ e.pressFirst :: e.pressRest, fifoChanges := n }) ∧
    (∀ e bs, table k = some e → e.release = some bs → ∃ n,
      stepWith pm table { s with pending := .keyEvent k .release :: rest } =
        .next { s with pending := rest, fifo := s.fifo ++ bs, fifoChanges := n }) ∧
    ∀ e, table k = some e → e.release = none →
      stepWith pm table { s with pending := .keyEvent k .release :: rest } = .next { s with pending := rest }

/-- 20_memory.md R49, 43_serial_fifo.md R119, 70_reset_and_hazards.md R191: along every schedule no byte is lost,
duplicated or reordered: what the FIFO held and the key events' bytes, in order, are the bytes removed and then the FIFO,
and at most one byte is removed per pop. -/
def Obligations.FifoKeepsEveryByteInOrder : Prop :=
  ∀ (pm : PortMap) (table : ScancodeTable) (es : List Stimulus) (s : State), ∃ t removed,
    performAll pm table es s = .next t ∧ s.fifo ++ es.flatMap (hostBytes table) = removed ++ t.fifo ∧
    removed.length ≤ popCount pm es

/-- A non-empty FIFO stays so until the CPU pops (70_reset_and_hazards.md R191): a non-zero status stays true. -/
def Obligations.FifoNonEmptyUntilPop : Prop :=
  ∀ (pm : PortMap) (table : ScancodeTable) (s t : State), stepWith pm table s = .next t → s.fifo ≠ [] → t.fifo = [] →
    ∃ op rest, s.pending = .transaction op :: rest ∧ decodeWith pm op = .inSerPop

/-! ## Unmapped ports, and rules over all transactions -/

/-- 44_unmapped.md R130, R131: a write to an unmapped port changes no state, a read returns 0x00 and changes none. -/
def Obligations.UnmappedPorts : Prop :=
  (∀ (pm : PortMap) (p v : Byte), (∀ r, pm r ≠ p) →
    decodeWith pm (.write p v) = .outUnmapped p v ∧ decodeWith pm (.read p) = .inUnmapped p) ∧
  (∀ p v d : Byte, 0x0F ≤ p.toNat → decodeWord referencePortMap (1#1 ++ p ++ v : BitVec (1 + 8 + 8)) = .outUnmapped p v ∧
    decodeWord referencePortMap (0#1 ++ p ++ d : BitVec (1 + 8 + 8)) = .inUnmapped p) ∧
  (∀ p v s, exec (.outUnmapped p v) s = .next s) ∧
  ∀ p s, exec (.inUnmapped p) s = .next { s with delivered := 0x00 :: s.delivered }

/-- 20_memory.md R37: an auto-increment bank read changes the latch, `IN SER_POP` on a non-empty FIFO removes its head,
and every other port read leaves the block's state unchanged. That the reads of the five write-only roles do is the spec's
own decision D6 (log 6), and that an auto-increment read leaves `dirty` as it was its decision D10 (log 15). -/
def Obligations.ReadsWithSideEffects : Prop :=
  (∀ i s, plainRead i = true → ∃ t, exec i s = .next t ∧ SameBlock s t) ∧
  (∀ i ∈ [Instr.inNameInc, .inColorInc, .inPatternInc, .inPaletteInc], ∀ s,
    ∃ t, exec i s = .next t ∧ t.latch ≠ s.latch ∧ SameBlock { s with latch := t.latch } t) ∧
  (∀ s, s.fifo ≠ [] → ∃ t, exec .inSerPop s = .next t ∧ SameBlock { s with fifo := s.fifo.tail } t) ∧
  ∀ s, s.fifo = [] → ∃ t, exec .inSerPop s = .next t ∧ SameBlock s t

/-- Writes to the scroll, control, latch and direct bank ports are idempotent (20_memory.md R38): the same write again
changes nothing more, in every state whose VRAM has its canonical form. -/
def Obligations.WritesAreIdempotent : Prop :=
  ∀ mk ∈ [Instr.outScrollxLo, .outScrollyLo, .outControl, .outLatchLo, .outLatchHi, .outName, .outColor, .outPattern,
      .outPalette], ∀ v s, Memory.wf s.vram → ∃ t, exec (mk v) s = .next t ∧ exec (mk v) t = .next t

/-- Repeated reads (20_memory.md R38): a read without side effects returns the same byte again after any schedule of the
three agents that never changes what it reads: a direct bank read the latch and the byte there, a status read the FIFO
(that its byte may differ after a change is the model's choice, log 7), a pop of an empty FIFO the FIFO, an unmapped read
nothing. The reads of the write-only roles, which R38 exempts, are not among them. -/
def Obligations.RepeatedReadsAgree : Prop :=
  ∀ (pm : PortMap) (table : ScancodeTable) (es : List Stimulus) (s : State),
    (∀ r ∈ [(Bank.name, Instr.inName), (.color, .inColor), (.pattern, .inPattern), (.palette, .inPalette)],
      UnchangedAlong (fun t => (t.latch, vramByte t r.1 t.latch)) pm table es s → ReadsAgain r.2 pm table es s) ∧
    (UnchangedAlong (fun t => t.fifo) pm table es s →
      ReadsAgain .inSerStatus pm table es s ∧ (s.fifo = [] → ReadsAgain .inSerPop pm table es s)) ∧
    ∀ p, ReadsAgain (.inUnmapped p) pm table es s

/-! ## The scanout engine and the redraw pass -/

/-- 45_scanout.md R140: the horizontal video coordinate; with zoom on, the screen columns 2k and 2k+1 have the same. -/
def Obligations.HorizontalVideoCoordinate : Prop :=
  (∀ s x, (videoX s x).toNat = ((if s.zoomX then x / 2 + 2 else x + 3) + s.scrollX.toNat) % 1024) ∧
  ∀ s k, s.zoomX = true → videoX s (2 * k) = videoX s (2 * k + 1)

/-- The vertical video coordinate (45_scanout.md R141): offset 4, and under zoom the parameter ZOOM_Y_OFFSET, which is 2 or
3 (the spec's decision D5, log 10). -/
def Obligations.VerticalVideoCoordinate : Prop :=
  (∀ s y, (videoY s y).toNat =
    ((if s.zoomY then y / 2 + Config.zoomYOffset else y + 4) + s.scrollY.toNat) % 1024) ∧
  (Config.zoomYOffset = 2 ∨ Config.zoomYOffset = 3)

/-- 45_scanout.md R142, R143: tile column and tile row as shifts and masks of the video coordinates. -/
def Obligations.TileCoordinates : Prop :=
  (∀ vx, (tileX vx).toNat = (vx.toNat >>> 3) &&& 0x7F) ∧
  (∀ vy, (tileY false vy).toNat = (vy.toNat >>> 3) &&& 0x3F) ∧
  ∀ vy, (tileY true vy).toNat = (((vy.toNat >>> 3) &&& 0x3F) &&& 0x3E) ||| (if vy.getLsbD 9 then 1 else 0)

/-- 45_scanout.md R145, R146: the pattern address and the pixel's nibble, by shifts and masks. -/
def Obligations.PatternLookup : Prop :=
  (∀ n vx vy, (patternAddr n vx vy).toNat =
    (vx.toNat &&& 7) ||| (((vy.toNat &&& 7) &&& 0b110) <<< 2) ||| (n.toNat <<< 5)) ∧
  ∀ vy p, (pixelNibble vy p).toNat = if (vy.toNat &&& 7) % 2 = 0 then p.toNat % 16 else p.toNat / 16

/-- The palette page bit (45_scanout.md R147) and the palette address by shifts (R148, whose place for the page bit is the
spec's own inference, log 23). -/
def Obligations.PaletteLookup : Prop :=
  (∀ tm vy, (palettePage tm vy).toNat = if tm then vy.toNat / 8 % 2 else vy.toNat / 512) ∧
  ∀ page c n, (paletteAddr page c n).toNat = n.toNat ||| (c.toNat <<< 4) ||| (page.toNat <<< 12)

/-- 45_scanout.md R150, R152, R153: each channel from its two bits and the shared intensity by CHANNEL_DECODE, replicated
into both nibbles; alpha is 255. -/
def Obligations.PaletteByteColour : Prop :=
  ∀ p : Byte,
    let ch (hi lo : Nat) : Nat := (channelDecode (BitVec.ofBool (p.getLsbD hi)) (BitVec.ofBool (p.getLsbD lo))
      (BitVec.ofNat 2 (p.toNat % 4))).toNat
    (paletteColour p).r.toNat = 17 * ch 7 6 ∧ (paletteColour p).g.toNat = 17 * ch 5 4 ∧
    (paletteColour p).b.toNat = 17 * ch 3 2 ∧ (paletteColour p).a = 255

/-- The value of CHANNEL_DECODE is the formula of 45_scanout.md R151 (the spec's decision D17, log 11); bit 2 is never
set. -/
def Obligations.ChannelDecodeFormula : Prop :=
  ∀ (h l : BitVec 1) (ii : BitVec 2),
    (channelDecode h l ii).toNat = ((h.toNat <<< 3) ||| (l.toNat <<< 1) ||| ii.toNat) ∧
    (channelDecode h l ii).getLsbD 2 = false

/-- The pixel of the bit-field form (45_scanout.md R154) is the pixel of the steps R140 to R153 in unbounded arithmetic.
It rests on the palette page bit's place (R148's inference, log 23), CHANNEL_DECODE's formula (D17, log 11) and the open
ZOOM_Y_OFFSET (D5, log 10). -/
def Obligations.PixelFormsAgree : Prop :=
  ∀ (s : State) (x y : Nat),
    let p := stepsPaletteByte Config.zoomYOffset s x y
    (pixel s x y).r.toNat = stepsChannel p 6 ∧ (pixel s x y).g.toNat = stepsChannel p 4 ∧
    (pixel s x y).b.toNat = stepsChannel p 2 ∧ (pixel s x y).a = 255

/-- 45_scanout.md R138: the pixel reads only scroll, zoom and text mode and the VRAM bytes: two states that agree on those
give the same pixel, whatever their latch, dirty flag, FIFO and framebuffer hold. -/
def Obligations.PixelReadsOnlyVideoState : Prop :=
  ∀ s t : State, t.scrollX = s.scrollX → t.scrollY = s.scrollY → t.zoomX = s.zoomX → t.zoomY = s.zoomY →
    t.textMode = s.textMode → (∀ b i, vramByte t b i = vramByte s b i) → ∀ x y, pixel t x y = pixel s x y

/-- 45_scanout.md R136, R139: the redraw pass, while `dirty` is set, writes each channel of every pixel of the one state it
starts from at its place, R, G, B, A; it clears `dirty` and changes nothing else. While `dirty` is clear the step changes
nothing (R135). -/
def Obligations.RedrawPass : Prop :=
  ∀ (pm : PortMap) (table : ScancodeTable) (s : State) (rest : List Stimulus), s.pending = .redraw :: rest →
    (s.dirty = true → ∃ f : Framebuffer,
      stepWith pm table s = .next { s with fb := f, dirty := false, pending := rest } ∧
      ∀ x y, x < 640 → y < 480 →
        f[4 * (y * 640 + x) + 0]? = some (pixel s x y).r ∧ f[4 * (y * 640 + x) + 1]? = some (pixel s x y).g ∧
        f[4 * (y * 640 + x) + 2]? = some (pixel s x y).b ∧ f[4 * (y * 640 + x) + 3]? = some (pixel s x y).a) ∧
    (s.dirty = false → stepWith pm table s = .next { s with pending := rest })

/-- The framebuffer changes only by a redraw step taken while `dirty` is set (10_state.md R20, 70_reset_and_hazards.md
R190). -/
def Obligations.FramebufferOnlyByRedraw : Prop :=
  ∀ (pm : PortMap) (table : ScancodeTable) (s t : State), stepWith pm table s = .next t → t.fb ≠ s.fb →
    ∃ rest, s.pending = .redraw :: rest ∧ s.dirty = true ∧ t.fb = render s

/-- `dirty` is cleared only by a redraw step (10_state.md R18), and after a pass it stays clear until a step that R18 lists
sets it: a scroll or control write, or a bank write that changes its byte (that a scroll-low write does is decision D9,
log 14; that a latch write does not is D10, log 15). -/
def Obligations.DirtyChangesOnlyAsListed : Prop :=
  ∀ (pm : PortMap) (table : ScancodeTable) (s t : State), stepWith pm table s = .next t →
    (s.dirty = true → t.dirty = false → ∃ rest, s.pending = .redraw :: rest) ∧
    (s.dirty = false → t.dirty = true → ∃ op rest, s.pending = .transaction op :: rest ∧
      ((∃ v, decodeWith pm op = .outScrollxLo v ∨ decodeWith pm op = .outScrollyLo v ∨
          decodeWith pm op = .outControl v) ∨
        ∃ b v, bankStore (decodeWith pm op) = some (b, v) ∧ vramByte s b s.latch ≠ v))

/-- 20_memory.md R46: "dirty = 0 implies fb = Render(current state)" is kept by every step of every agent. -/
def Obligations.FramebufferCoherenceKept : Prop :=
  ∀ (pm : PortMap) (table : ScancodeTable) (s t : State), Coherent s → stepWith pm table s = .next t → Coherent t

/-- The coherence of 20_memory.md R46 holds at power-up, where `dirty` is set (the spec's decision D11, log 13). -/
def Obligations.FramebufferCoherentAtReset : Prop := Coherent State.reset

/-- From power-up, along every schedule of the three agents, and from any state along every schedule after a redraw step
that found `dirty` set: while `dirty` is clear the framebuffer is the picture of the current state (20_memory.md R46). -/
def Obligations.FramebufferCoherentAlongSchedules : Prop :=
  ∀ (pm : PortMap) (table : ScancodeTable) (es : List Stimulus),
    (∃ t, performAll pm table es State.reset = .next t ∧ Coherent t) ∧
    ∀ s : State, s.dirty = true → ∃ t, performAll pm table (.redraw :: es) s = .next t ∧ Coherent t

/-- The structure of the tile map (45_scanout.md R156, R157): in graphics mode the plane repeats every 512 lines, and only
the palette page differs; in text mode one tile row spans 16 lines, and its two 8-line halves have the pattern rows of one
another and the two palette pages. -/
def Obligations.TileMapStructure : Prop :=
  (∀ vy : Scroll, tileY false (vy + 512) = tileY false vy ∧ palettePage false (vy + 512) ≠ palettePage false vy ∧
    ∀ n vx p, patternAddr n vx (vy + 512) = patternAddr n vx vy ∧ pixelNibble (vy + 512) p = pixelNibble vy p) ∧
  (∀ vy wy : Scroll, vy.toNat / 16 = wy.toNat / 16 → tileY true vy = tileY true wy) ∧
  ∀ vy : Scroll, vy.toNat % 16 < 8 → palettePage true vy = 0 ∧ palettePage true (vy + 8) = 1 ∧
    ∀ n vx p, patternAddr n vx (vy + 8) = patternAddr n vx vy ∧ pixelNibble (vy + 8) p = pixelNibble vy p
end

