-- ==== Sys2Proof/Laws/PerInstr.lean ====
section
/-! SUPPORT. Per instruction: the three fields of its transaction word (30_encoding.md R51) are its direction, its port
and its data, so that the encoder drops no bit of an operand. -/

namespace Sys2Proof

/-- The value of a word written as direction, port, data. -/
theorem wordOfFields_toNat (d : BitVec 1) (p v : Byte) :
    (d ++ p ++ v : BitVec (1 + 8 + 8)).toNat = d.toNat * 65536 + p.toNat * 256 + v.toNat := by
  have hp := p.isLt
  have hv := v.isLt
  rw [BitVec.toNat_append, BitVec.toNat_append, ← Nat.shiftLeft_add_eq_or_of_lt hv, ← Nat.shiftLeft_add_eq_or_of_lt hp,
    Nat.shiftLeft_eq, Nat.shiftLeft_eq]
  omega

/-- The fields of a word written as direction, port, data. -/
theorem wordOfFields_fields (d : BitVec 1) (p v : Byte) (w : TransactionWord)
    (h : w.toNat = d.toNat * 65536 + p.toNat * 256 + v.toNat) :
    w.getLsbD 16 = decide (d = 1#1) ∧ w.extractLsb' 8 8 = p ∧ w.extractLsb' 0 8 = v := by
  have hp := p.isLt
  have hv := v.isLt
  have hd := d.isLt
  refine ⟨?_, BitVec.eq_of_toNat_eq ?_, BitVec.eq_of_toNat_eq ?_⟩
  · rw [BitVec.getLsbD, Nat.testBit_eq_decide_div_mod_eq, h]
    refine decide_eq_decide.mpr ⟨fun e => BitVec.eq_of_toNat_eq ?_, fun e => ?_⟩
    · show d.toNat = 1
      omega
    · rw [e]
      show (1 * 65536 + p.toNat * 256 + v.toNat) / 2 ^ 16 % 2 = 1
      omega
  · rw [BitVec.extractLsb'_toNat, h, Nat.shiftRight_eq_div_pow]
    omega
  · rw [BitVec.extractLsb'_toNat, h, Nat.shiftRight_zero]
    omega

theorem PortOp.toWord_write (p v : Byte) :
    (PortOp.write p v).toWord.getLsbD 16 = true ∧ (PortOp.write p v).toWord.extractLsb' 8 8 = p ∧
      (PortOp.write p v).toWord.extractLsb' 0 8 = v :=
  wordOfFields_fields 1#1 p v _ (wordOfFields_toNat 1#1 p v)

theorem PortOp.toWord_read (p : Byte) :
    (PortOp.read p).toWord.getLsbD 16 = false ∧ (PortOp.read p).toWord.extractLsb' 8 8 = p ∧
      (PortOp.read p).toWord.extractLsb' 0 8 = 0#8 :=
  wordOfFields_fields 0#1 p 0#8 _ (wordOfFields_toNat 0#1 p 0#8)

namespace Laws.WordFields

/-- The word of `i` holds, under every port map, the direction, the port and the data of its transaction. -/
def Statement (i : Instr) : Prop :=
  ∀ pm : PortMap,
    match i.portOp pm with
    | .write p v => (encodeWord pm i).getLsbD 16 = true ∧ (encodeWord pm i).extractLsb' 8 8 = p ∧
        (encodeWord pm i).extractLsb' 0 8 = v
    | .read p => (encodeWord pm i).getLsbD 16 = false ∧ (encodeWord pm i).extractLsb' 8 8 = p ∧
        (encodeWord pm i).extractLsb' 0 8 = 0#8

theorem outScrollxLo (v : Byte) : Statement (.outScrollxLo v) := fun _ => PortOp.toWord_write _ _
theorem inScrollxLo : Statement (.inScrollxLo) := fun _ => PortOp.toWord_read _
theorem outScrollyLo (v : Byte) : Statement (.outScrollyLo v) := fun _ => PortOp.toWord_write _ _
theorem inScrollyLo : Statement (.inScrollyLo) := fun _ => PortOp.toWord_read _
theorem outControl (v : Byte) : Statement (.outControl v) := fun _ => PortOp.toWord_write _ _
theorem inControl : Statement (.inControl) := fun _ => PortOp.toWord_read _
theorem outLatchLo (v : Byte) : Statement (.outLatchLo v) := fun _ => PortOp.toWord_write _ _
theorem inLatchLo : Statement (.inLatchLo) := fun _ => PortOp.toWord_read _
theorem outLatchHi (v : Byte) : Statement (.outLatchHi v) := fun _ => PortOp.toWord_write _ _
theorem inLatchHi : Statement (.inLatchHi) := fun _ => PortOp.toWord_read _
theorem outName (v : Byte) : Statement (.outName v) := fun _ => PortOp.toWord_write _ _
theorem inName : Statement (.inName) := fun _ => PortOp.toWord_read _
theorem outColor (v : Byte) : Statement (.outColor v) := fun _ => PortOp.toWord_write _ _
theorem inColor : Statement (.inColor) := fun _ => PortOp.toWord_read _
theorem outPattern (v : Byte) : Statement (.outPattern v) := fun _ => PortOp.toWord_write _ _
theorem inPattern : Statement (.inPattern) := fun _ => PortOp.toWord_read _
theorem outPalette (v : Byte) : Statement (.outPalette v) := fun _ => PortOp.toWord_write _ _
theorem inPalette : Statement (.inPalette) := fun _ => PortOp.toWord_read _
theorem outNameInc (v : Byte) : Statement (.outNameInc v) := fun _ => PortOp.toWord_write _ _
theorem inNameInc : Statement (.inNameInc) := fun _ => PortOp.toWord_read _
theorem outColorInc (v : Byte) : Statement (.outColorInc v) := fun _ => PortOp.toWord_write _ _
theorem inColorInc : Statement (.inColorInc) := fun _ => PortOp.toWord_read _
theorem outPatternInc (v : Byte) : Statement (.outPatternInc v) := fun _ => PortOp.toWord_write _ _
theorem inPatternInc : Statement (.inPatternInc) := fun _ => PortOp.toWord_read _
theorem outPaletteInc (v : Byte) : Statement (.outPaletteInc v) := fun _ => PortOp.toWord_write _ _
theorem inPaletteInc : Statement (.inPaletteInc) := fun _ => PortOp.toWord_read _
theorem outSerPop (v : Byte) : Statement (.outSerPop v) := fun _ => PortOp.toWord_write _ _
theorem inSerPop : Statement (.inSerPop) := fun _ => PortOp.toWord_read _
theorem outSerStatus (v : Byte) : Statement (.outSerStatus v) := fun _ => PortOp.toWord_write _ _
theorem inSerStatus : Statement (.inSerStatus) := fun _ => PortOp.toWord_read _
theorem outUnmapped (p v : Byte) : Statement (.outUnmapped p v) := fun _ => PortOp.toWord_write _ _
theorem inUnmapped (p : Byte) : Statement (.inUnmapped p) := fun _ => PortOp.toWord_read _

end Laws.WordFields

end Sys2Proof
end

