-- ==== Sys2Proof/Laws/Decode.lean ====
section
/-! SUPPORT. The port decode (30_encoding.md R55) and the transaction word (R51): which role a port has, and that a
transaction's word is read back as that transaction. -/

namespace Sys2Proof

theorem Role.mem_all (r : Role) : r ∈ Role.all := by cases r <;> decide

/-- The port of a role is decoded as that role, under an injective map. -/
theorem roleAt_port {pm : PortMap} (h : Function.Injective pm) (r : Role) : pm.roleAt (pm r) = some r := by
  unfold PortMap.roleAt
  rw [List.find?_eq_some_iff_append]
  obtain ⟨as, bs, hab⟩ := List.append_of_mem (Role.mem_all r)
  have hn : Role.all.Nodup := by decide
  refine ⟨by simp, as, bs, hab, fun a ha => ?_⟩
  have : a ≠ r := by
    rintro rfl
    rw [hab, List.nodup_append] at hn
    exact hn.2.2 a ha a (by simp) rfl
  simpa using fun e => this (h e)

/-- A port of no role has no role. -/
theorem roleAt_unmapped {pm : PortMap} {p : Byte} (h : ∀ r, pm r ≠ p) : pm.roleAt p = none := by
  unfold PortMap.roleAt
  rw [List.find?_eq_none]
  intro r _
  simpa using h r

theorem port_of_roleAt {pm : PortMap} {p : Byte} {r : Role} (h : pm.roleAt p = some r) : pm r = p := by
  simpa using List.find?_some h

theorem mapped_eq_false_of_roleAt {pm : PortMap} {p : Byte} (h : pm.roleAt p = none) : pm.mapped p = false := by
  unfold PortMap.roleAt at h
  rw [List.find?_eq_none] at h
  simpa [PortMap.mapped] using h

theorem referencePortMap_injective : Function.Injective referencePortMap := by
  intro a b h
  cases a <;> cases b <;> first | rfl | exact absurd h (by decide)

/-- The word of a transaction is read back as that transaction. -/
theorem PortOp.ofWord_toWord (op : PortOp) : PortOp.ofWord op.toWord = op := by
  cases op with
  | read p =>
    have h := PortOp.toWord_read p
    simp only [PortOp.ofWord, h.1, h.2.1]
    rfl
  | write p v =>
    have h := PortOp.toWord_write p v
    simp only [PortOp.ofWord, h.1, h.2.1, h.2.2]
    rfl

end Sys2Proof
end

