-- ==== Sys2Proof/Laws/Memory.lean ====
section
/-! SUPPORT. The laws of the memory operations: a read after a write, the canonical form kept, and a canonical memory
determined by what it reads as. -/

namespace Sys2Proof.Machine

theorem memRead_of_not_listed {m : Memory} {a : Nat} (h : ∀ c ∈ m, c.1 ≠ a) : memRead m a = memUnlisted a := by
  induction m with
  | nil => rfl
  | cons c m ih =>
    rw [memRead, if_neg (h c (by simp)), ih fun d hd => h d (by simp [hd])]

theorem memErase_not_listed (m : Memory) (a : Nat) : ∀ c ∈ memErase m a, c.1 ≠ a := by
  intro c hc
  simpa using (List.mem_filter.mp hc).2

theorem memRead_memErase (m : Memory) (a b : Nat) :
    memRead (memErase m a) b = if b = a then memUnlisted a else memRead m b := by
  by_cases hb : b = a
  · subst hb
    rw [if_pos rfl, memRead_of_not_listed (memErase_not_listed m b)]
  rw [if_neg hb]
  induction m with
  | nil => rfl
  | cons c m ih =>
    by_cases hc : c.1 = a
    · have : memErase (c :: m) a = memErase m a := by simp [memErase, hc]
      rw [this, ih, memRead, if_neg (by omega)]
    · have : memErase (c :: m) a = c :: memErase m a := by simp [memErase, hc]
      rw [this, memRead, memRead, ih]

theorem memRead_memInsert {m : Memory} {a : Nat} (v : Byte) (h : ∀ c ∈ m, c.1 ≠ a) (b : Nat) :
    memRead (memInsert (a, v) m) b = if b = a then v else memRead m b := by
  induction m with
  | nil => simp [memInsert, memRead, eq_comm]
  | cons d m ih =>
    have hd : d.1 ≠ a := h d (by simp)
    have ih := ih fun c hc => h c (by simp [hc])
    unfold memInsert
    split
    · simp [memRead, eq_comm]
    · rw [memRead, ih, memRead]
      by_cases hb : b = a
      · subst hb
        simp [hd]
      · simp [hb]

/-- A read after a write: the byte written at its address, what stood there before everywhere else. -/
theorem memRead_memWrite (m : Memory) (a : Nat) (v : Byte) (b : Nat) :
    memRead (memWrite m a v) b = if b = a then v else memRead m b := by
  unfold memWrite
  split
  · rename_i hv
    rw [memRead_memErase, hv]
  · rw [memRead_memInsert v (memErase_not_listed m a), memRead_memErase]
    split <;> rfl

theorem mem_memInsert {c d : Host.Cell} {m : Memory} : d ∈ memInsert c m ↔ d = c ∨ d ∈ m := by
  induction m with
  | nil => simp [memInsert]
  | cons e m ih =>
    unfold memInsert
    split
    · simp
    · simp [ih]
      tauto

theorem memErase_wf {m : Memory} (h : Memory.wf m) (a : Nat) : Memory.wf (memErase m a) :=
  ⟨h.1.filter _, fun c hc => h.2 c (List.mem_filter.mp hc).1⟩

theorem memInsert_wf {m : Memory} {c : Host.Cell} (h : Memory.wf m) (hm : ∀ d ∈ m, d.1 ≠ c.1)
    (hc : c.1 < Config.vramBytes ∧ c.2 ≠ memUnlisted c.1) : Memory.wf (memInsert c m) := by
  refine ⟨?_, fun d hd => (mem_memInsert.mp hd).elim (fun e => e ▸ hc) (h.2 d)⟩
  have hp := h.1
  clear h
  induction m with
  | nil => simp [memInsert]
  | cons e m ih =>
    obtain ⟨he, hp'⟩ := List.pairwise_cons.mp hp
    unfold memInsert
    split
    · rename_i hlt
      refine List.pairwise_cons.mpr ⟨fun d hd => ?_, hp⟩
      rcases List.mem_cons.mp hd with rfl | hd
      · exact hlt
      · exact hlt.trans (he d hd)
    · rename_i hlt
      refine List.pairwise_cons.mpr ⟨fun d hd => ?_, ih (fun d hd => hm d (by simp [hd])) hp'⟩
      rcases mem_memInsert.mp hd with rfl | hd
      · have := hm e (by simp)
        omega
      · exact he d hd

/-- A write inside VRAM keeps the canonical form. -/
theorem memWrite_wf {m : Memory} (h : Memory.wf m) {a : Nat} (ha : a < Config.vramBytes) (v : Byte) :
    Memory.wf (memWrite m a v) := by
  unfold memWrite
  split
  · exact memErase_wf h a
  · rename_i hv
    exact memInsert_wf (memErase_wf h a) (memErase_not_listed m a) ⟨ha, hv⟩

/-- Two canonical memories that read alike are the same list. -/
theorem Memory.eq_of_memRead {m n : Memory} (hm : Memory.wf m) (hn : Memory.wf n)
    (h : ∀ a, memRead m a = memRead n a) : m = n := by
  have apart : ∀ {c : Host.Cell} {m n : Memory}, Memory.wf (c :: m) → (∀ d ∈ n, c.1 < d.1) →
      (∀ a, memRead (c :: m) a = memRead n a) → False := by
    intro c m n hm hn h
    have := h c.1
    rw [memRead, if_pos rfl, memRead_of_not_listed fun d hd => by have := hn d hd; omega] at this
    exact (hm.2 c (by simp)).2 this
  have tailWf : ∀ {c : Host.Cell} {m : Memory}, Memory.wf (c :: m) → Memory.wf m := fun h =>
    ⟨(List.pairwise_cons.mp h.1).2, fun d hd => h.2 d (by simp [hd])⟩
  induction m generalizing n with
  | nil =>
    cases n with
    | nil => rfl
    | cons d n => exact (apart hn (by simp) fun a => (h a).symm).elim
  | cons c m ih =>
    cases n with
    | nil => exact (apart hm (by simp) h).elim
    | cons d n =>
      have hcm := (List.pairwise_cons.mp hm.1).1
      have hdn := (List.pairwise_cons.mp hn.1).1
      rcases Nat.lt_trichotomy c.1 d.1 with hlt | heq | hgt
      · refine (apart hm (fun e he => ?_) h).elim
        rcases List.mem_cons.mp he with rfl | he
        · exact hlt
        · exact hlt.trans (hdn e he)
      · have hv : c.2 = d.2 := by
          have := h c.1
          rwa [memRead, if_pos rfl, memRead, if_pos heq.symm] at this
        have hcd : c = d := Prod.ext heq hv
        subst hcd
        rw [ih (tailWf hm) (tailWf hn) fun a => ?_]
        by_cases ha : c.1 = a
        · subst ha
          rw [memRead_of_not_listed fun e he => by have := hcm e he; omega,
            memRead_of_not_listed fun e he => by have := hdn e he; omega]
        · have := h a
          rwa [memRead, if_neg ha, memRead, if_neg ha] at this
      · refine (apart hn (fun e he => ?_) fun a => (h a).symm).elim
        rcases List.mem_cons.mp he with rfl | he
        · exact hgt
        · exact hgt.trans (hcm e he)

/-- Writing the byte already there changes nothing (42_vram_access.md R91). -/
theorem memWrite_same {m : Memory} (h : Memory.wf m) {a : Nat} (ha : a < Config.vramBytes) :
    memWrite m a (memRead m a) = m :=
  Memory.eq_of_memRead (memWrite_wf h ha _) h fun b => by
    rw [memRead_memWrite]
    split
    · rename_i hb
      rw [hb]
    · rfl

end Sys2Proof.Machine
end

