-- ==== Sys2Proof/Laws/State.lean ====
section
/-! SUPPORT. What each named update does to each field of the state, so that no later proof unfolds a record update. -/

namespace Sys2Proof.Machine

section markDirty
variable (s : State)
@[simp] theorem markDirty_scrollX : (markDirty s).scrollX = s.scrollX := rfl
@[simp] theorem markDirty_scrollY : (markDirty s).scrollY = s.scrollY := rfl
@[simp] theorem markDirty_zoomX : (markDirty s).zoomX = s.zoomX := rfl
@[simp] theorem markDirty_zoomY : (markDirty s).zoomY = s.zoomY := rfl
@[simp] theorem markDirty_textMode : (markDirty s).textMode = s.textMode := rfl
@[simp] theorem markDirty_latch : (markDirty s).latch = s.latch := rfl
@[simp] theorem markDirty_vram : (markDirty s).vram = s.vram := rfl
@[simp] theorem markDirty_dirty : (markDirty s).dirty = true := rfl
@[simp] theorem markDirty_fifo : (markDirty s).fifo = s.fifo := rfl
@[simp] theorem markDirty_fb : (markDirty s).fb = s.fb := rfl
@[simp] theorem markDirty_delivered : (markDirty s).delivered = s.delivered := rfl
@[simp] theorem markDirty_draws : (markDirty s).draws = s.draws := rfl
@[simp] theorem markDirty_fifoChanges : (markDirty s).fifoChanges = s.fifoChanges := rfl
@[simp] theorem markDirty_pending : (markDirty s).pending = s.pending := rfl
end markDirty

section vramStore
variable (b : Bank) (v : Byte) (s : State)
@[simp] theorem vramStore_scrollX : (vramStore b v s).scrollX = s.scrollX := rfl
@[simp] theorem vramStore_scrollY : (vramStore b v s).scrollY = s.scrollY := rfl
@[simp] theorem vramStore_zoomX : (vramStore b v s).zoomX = s.zoomX := rfl
@[simp] theorem vramStore_zoomY : (vramStore b v s).zoomY = s.zoomY := rfl
@[simp] theorem vramStore_textMode : (vramStore b v s).textMode = s.textMode := rfl
@[simp] theorem vramStore_latch : (vramStore b v s).latch = s.latch := rfl
@[simp] theorem vramStore_vram : (vramStore b v s).vram = memWrite s.vram (vramAddr b s.latch).toNat v := rfl
@[simp] theorem vramStore_dirty : (vramStore b v s).dirty = dirtyAfterStore s.dirty (vramByte s b s.latch) v := rfl
@[simp] theorem vramStore_fifo : (vramStore b v s).fifo = s.fifo := rfl
@[simp] theorem vramStore_fb : (vramStore b v s).fb = s.fb := rfl
@[simp] theorem vramStore_delivered : (vramStore b v s).delivered = s.delivered := rfl
@[simp] theorem vramStore_draws : (vramStore b v s).draws = s.draws := rfl
@[simp] theorem vramStore_fifoChanges : (vramStore b v s).fifoChanges = s.fifoChanges := rfl
@[simp] theorem vramStore_pending : (vramStore b v s).pending = s.pending := rfl
end vramStore

section latchIncrement
variable (s : State)
@[simp] theorem latchIncrement_scrollX : (latchIncrement s).scrollX = s.scrollX := rfl
@[simp] theorem latchIncrement_scrollY : (latchIncrement s).scrollY = s.scrollY := rfl
@[simp] theorem latchIncrement_zoomX : (latchIncrement s).zoomX = s.zoomX := rfl
@[simp] theorem latchIncrement_zoomY : (latchIncrement s).zoomY = s.zoomY := rfl
@[simp] theorem latchIncrement_textMode : (latchIncrement s).textMode = s.textMode := rfl
@[simp] theorem latchIncrement_latch : (latchIncrement s).latch = s.latch + 1 := rfl
@[simp] theorem latchIncrement_vram : (latchIncrement s).vram = s.vram := rfl
@[simp] theorem latchIncrement_dirty : (latchIncrement s).dirty = s.dirty := rfl
@[simp] theorem latchIncrement_fifo : (latchIncrement s).fifo = s.fifo := rfl
@[simp] theorem latchIncrement_fb : (latchIncrement s).fb = s.fb := rfl
@[simp] theorem latchIncrement_delivered : (latchIncrement s).delivered = s.delivered := rfl
@[simp] theorem latchIncrement_draws : (latchIncrement s).draws = s.draws := rfl
@[simp] theorem latchIncrement_fifoChanges : (latchIncrement s).fifoChanges = s.fifoChanges := rfl
@[simp] theorem latchIncrement_pending : (latchIncrement s).pending = s.pending := rfl
end latchIncrement

section deliver
variable (v : Byte) (s : State)
@[simp] theorem deliver_scrollX : (deliver v s).scrollX = s.scrollX := rfl
@[simp] theorem deliver_scrollY : (deliver v s).scrollY = s.scrollY := rfl
@[simp] theorem deliver_zoomX : (deliver v s).zoomX = s.zoomX := rfl
@[simp] theorem deliver_zoomY : (deliver v s).zoomY = s.zoomY := rfl
@[simp] theorem deliver_textMode : (deliver v s).textMode = s.textMode := rfl
@[simp] theorem deliver_latch : (deliver v s).latch = s.latch := rfl
@[simp] theorem deliver_vram : (deliver v s).vram = s.vram := rfl
@[simp] theorem deliver_dirty : (deliver v s).dirty = s.dirty := rfl
@[simp] theorem deliver_fifo : (deliver v s).fifo = s.fifo := rfl
@[simp] theorem deliver_fb : (deliver v s).fb = s.fb := rfl
@[simp] theorem deliver_delivered : (deliver v s).delivered = v :: s.delivered := rfl
@[simp] theorem deliver_draws : (deliver v s).draws = s.draws := rfl
@[simp] theorem deliver_fifoChanges : (deliver v s).fifoChanges = s.fifoChanges := rfl
@[simp] theorem deliver_pending : (deliver v s).pending = s.pending := rfl
end deliver

section nextDraw
variable (s : State)
@[simp] theorem nextDraw_scrollX : (nextDraw s).scrollX = s.scrollX := rfl
@[simp] theorem nextDraw_scrollY : (nextDraw s).scrollY = s.scrollY := rfl
@[simp] theorem nextDraw_zoomX : (nextDraw s).zoomX = s.zoomX := rfl
@[simp] theorem nextDraw_zoomY : (nextDraw s).zoomY = s.zoomY := rfl
@[simp] theorem nextDraw_textMode : (nextDraw s).textMode = s.textMode := rfl
@[simp] theorem nextDraw_latch : (nextDraw s).latch = s.latch := rfl
@[simp] theorem nextDraw_vram : (nextDraw s).vram = s.vram := rfl
@[simp] theorem nextDraw_dirty : (nextDraw s).dirty = s.dirty := rfl
@[simp] theorem nextDraw_fifo : (nextDraw s).fifo = s.fifo := rfl
@[simp] theorem nextDraw_fb : (nextDraw s).fb = s.fb := rfl
@[simp] theorem nextDraw_delivered : (nextDraw s).delivered = s.delivered := rfl
@[simp] theorem nextDraw_draws : (nextDraw s).draws = s.draws + 1 := rfl
@[simp] theorem nextDraw_fifoChanges : (nextDraw s).fifoChanges = s.fifoChanges := rfl
@[simp] theorem nextDraw_pending : (nextDraw s).pending = s.pending := rfl
end nextDraw

section setFifo
variable (q : List Byte) (s : State)
@[simp] theorem setFifo_scrollX : (setFifo q s).scrollX = s.scrollX := rfl
@[simp] theorem setFifo_scrollY : (setFifo q s).scrollY = s.scrollY := rfl
@[simp] theorem setFifo_zoomX : (setFifo q s).zoomX = s.zoomX := rfl
@[simp] theorem setFifo_zoomY : (setFifo q s).zoomY = s.zoomY := rfl
@[simp] theorem setFifo_textMode : (setFifo q s).textMode = s.textMode := rfl
@[simp] theorem setFifo_latch : (setFifo q s).latch = s.latch := rfl
@[simp] theorem setFifo_vram : (setFifo q s).vram = s.vram := rfl
@[simp] theorem setFifo_dirty : (setFifo q s).dirty = s.dirty := rfl
@[simp] theorem setFifo_fifo : (setFifo q s).fifo = q := rfl
@[simp] theorem setFifo_fb : (setFifo q s).fb = s.fb := rfl
@[simp] theorem setFifo_delivered : (setFifo q s).delivered = s.delivered := rfl
@[simp] theorem setFifo_draws : (setFifo q s).draws = s.draws := rfl
@[simp] theorem setFifo_fifoChanges : (setFifo q s).fifoChanges =
    if q = s.fifo then s.fifoChanges else s.fifoChanges + 1 := rfl
@[simp] theorem setFifo_pending : (setFifo q s).pending = s.pending := rfl
end setFifo

section fifoPush
variable (bs : List Byte) (s : State)
@[simp] theorem fifoPush_scrollX : (fifoPush bs s).scrollX = s.scrollX := rfl
@[simp] theorem fifoPush_scrollY : (fifoPush bs s).scrollY = s.scrollY := rfl
@[simp] theorem fifoPush_zoomX : (fifoPush bs s).zoomX = s.zoomX := rfl
@[simp] theorem fifoPush_zoomY : (fifoPush bs s).zoomY = s.zoomY := rfl
@[simp] theorem fifoPush_textMode : (fifoPush bs s).textMode = s.textMode := rfl
@[simp] theorem fifoPush_latch : (fifoPush bs s).latch = s.latch := rfl
@[simp] theorem fifoPush_vram : (fifoPush bs s).vram = s.vram := rfl
@[simp] theorem fifoPush_dirty : (fifoPush bs s).dirty = s.dirty := rfl
@[simp] theorem fifoPush_fifo : (fifoPush bs s).fifo = s.fifo ++ bs := rfl
@[simp] theorem fifoPush_fb : (fifoPush bs s).fb = s.fb := rfl
@[simp] theorem fifoPush_delivered : (fifoPush bs s).delivered = s.delivered := rfl
@[simp] theorem fifoPush_draws : (fifoPush bs s).draws = s.draws := rfl
@[simp] theorem fifoPush_fifoChanges : (fifoPush bs s).fifoChanges =
    if s.fifo ++ bs = s.fifo then s.fifoChanges else s.fifoChanges + 1 := rfl
@[simp] theorem fifoPush_pending : (fifoPush bs s).pending = s.pending := rfl
end fifoPush

section fifoPop
variable (s : State)
@[simp] theorem fifoPop_scrollX : (fifoPop s).scrollX = s.scrollX := rfl
@[simp] theorem fifoPop_scrollY : (fifoPop s).scrollY = s.scrollY := rfl
@[simp] theorem fifoPop_zoomX : (fifoPop s).zoomX = s.zoomX := rfl
@[simp] theorem fifoPop_zoomY : (fifoPop s).zoomY = s.zoomY := rfl
@[simp] theorem fifoPop_textMode : (fifoPop s).textMode = s.textMode := rfl
@[simp] theorem fifoPop_latch : (fifoPop s).latch = s.latch := rfl
@[simp] theorem fifoPop_vram : (fifoPop s).vram = s.vram := rfl
@[simp] theorem fifoPop_dirty : (fifoPop s).dirty = s.dirty := rfl
@[simp] theorem fifoPop_fifo : (fifoPop s).fifo = s.fifo.tail := rfl
@[simp] theorem fifoPop_fb : (fifoPop s).fb = s.fb := rfl
@[simp] theorem fifoPop_delivered : (fifoPop s).delivered = s.delivered := rfl
@[simp] theorem fifoPop_draws : (fifoPop s).draws = s.draws := rfl
@[simp] theorem fifoPop_fifoChanges : (fifoPop s).fifoChanges =
    if s.fifo.tail = s.fifo then s.fifoChanges else s.fifoChanges + 1 := rfl
@[simp] theorem fifoPop_pending : (fifoPop s).pending = s.pending := rfl
end fifoPop

section issue
variable (e : Stimulus) (s : State)
@[simp] theorem issue_scrollX : (issue e s).scrollX = s.scrollX := rfl
@[simp] theorem issue_scrollY : (issue e s).scrollY = s.scrollY := rfl
@[simp] theorem issue_zoomX : (issue e s).zoomX = s.zoomX := rfl
@[simp] theorem issue_zoomY : (issue e s).zoomY = s.zoomY := rfl
@[simp] theorem issue_textMode : (issue e s).textMode = s.textMode := rfl
@[simp] theorem issue_latch : (issue e s).latch = s.latch := rfl
@[simp] theorem issue_vram : (issue e s).vram = s.vram := rfl
@[simp] theorem issue_dirty : (issue e s).dirty = s.dirty := rfl
@[simp] theorem issue_fifo : (issue e s).fifo = s.fifo := rfl
@[simp] theorem issue_fb : (issue e s).fb = s.fb := rfl
@[simp] theorem issue_delivered : (issue e s).delivered = s.delivered := rfl
@[simp] theorem issue_draws : (issue e s).draws = s.draws := rfl
@[simp] theorem issue_fifoChanges : (issue e s).fifoChanges = s.fifoChanges := rfl
@[simp] theorem issue_pending : (issue e s).pending = e :: s.pending := rfl
end issue

end Sys2Proof.Machine
end

