-- ==== Sys2Proof/Laws/Ops.lean ====
section
/-! SUPPORT. One lemma per shared operation that says what it can do: VRAM addresses, the bank store, the register
merges, the scanout addresses in plain arithmetic. -/

namespace Sys2Proof.Machine

/-- The physical address is the bank's number times 8192 plus the index (20_memory.md R31). -/
theorem vramAddr_toNat (b : Bank) (i : Index) : (vramAddr b i).toNat = (bankNumber b).toNat * 8192 + i.toNat := by
  have := i.isLt
  simp only [vramAddr, BitVec.toNat_append]
  rw [← Nat.shiftLeft_add_eq_or_of_lt this, Nat.shiftLeft_eq]

theorem vramAddr_lt (b : Bank) (i : Index) : (vramAddr b i).toNat < Config.vramBytes := (vramAddr b i).isLt

theorem bankNumber_injective {b c : Bank} (h : bankNumber b = bankNumber c) : b = c := by
  cases b <;> cases c <;> first | rfl | exact absurd h (by decide)

/-- Different bytes of VRAM have different addresses: no access carries into another bank (20_memory.md R31). -/
theorem vramAddr_toNat_inj {b c : Bank} {i j : Index} :
    (vramAddr b i).toNat = (vramAddr c j).toNat ↔ b = c ∧ i = j := by
  refine ⟨fun h => ?_, fun h => by rw [h.1, h.2]⟩
  rw [vramAddr_toNat, vramAddr_toNat] at h
  have hi := i.isLt
  have hj := j.isLt
  exact ⟨bankNumber_injective (BitVec.eq_of_toNat_eq (by omega)), BitVec.eq_of_toNat_eq (by omega)⟩

/-- What a bank store leaves in VRAM: `v` at the latch of bank `b`, every other byte as it was (42_vram_access.md R91). -/
theorem vramByte_vramStore (b c : Bank) (v : Byte) (s : State) (j : Index) :
    vramByte (vramStore b v s) c j = if c = b ∧ j = s.latch then v else vramByte s c j := by
  simp only [vramByte, vramStore_vram, memRead_memWrite, vramAddr_toNat_inj]

/-- Advancing the latch changes no byte of VRAM (42_vram_access.md R92). -/
theorem vramByte_latchIncrement (s : State) (b : Bank) (i : Index) : vramByte (latchIncrement s) b i = vramByte s b i := rfl

theorem dirtyAfterStore_eq (d : Bool) (old v : Byte) : dirtyAfterStore d old v = if old = v then d else true := by
  unfold dirtyAfterStore
  by_cases h : old = v <;> simp [h]

/-- A store of the byte already there changes no state at all (42_vram_access.md R91). -/
theorem vramStore_same (b : Bank) (s : State) (h : Memory.wf s.vram) : vramStore b (vramByte s b s.latch) s = s := by
  simp [vramStore, dirtyAfterStore, vramByte, memWrite_same h (vramAddr_lt b s.latch)]

theorem latch_add_one (l : Index) : l + 1 = BitVec.ofNat 13 ((l.toNat + 1) % 8192) :=
  BitVec.eq_of_toNat_eq (by simp [BitVec.toNat_add])

theorem mergeScrollLow_toNat (x : Scroll) (v : Byte) :
    (mergeScrollLow x v).toNat = x.toNat / 256 * 256 + v.toNat := by
  have hx := x.isLt
  have hv := v.isLt
  simp only [mergeScrollLow, BitVec.toNat_append, BitVec.extractLsb'_toNat]
  rw [← Nat.shiftLeft_add_eq_or_of_lt hv, Nat.shiftLeft_eq, Nat.shiftRight_eq_div_pow]
  omega

theorem mergeScrollHigh_toNat (x : Scroll) (h : BitVec 2) :
    (mergeScrollHigh x h).toNat = h.toNat * 256 + x.toNat % 256 := by
  simp only [mergeScrollHigh, BitVec.toNat_append, BitVec.extractLsb'_toNat, Nat.shiftRight_zero]
  rw [← Nat.shiftLeft_add_eq_or_of_lt (Nat.mod_lt _ (by decide)), Nat.shiftLeft_eq]

theorem mergeLatchLow_toNat (l : Index) (v : Byte) :
    (mergeLatchLow l v).toNat = l.toNat / 256 * 256 + v.toNat := by
  have hl := l.isLt
  have hv := v.isLt
  simp only [mergeLatchLow, BitVec.toNat_append, BitVec.extractLsb'_toNat]
  rw [← Nat.shiftLeft_add_eq_or_of_lt hv, Nat.shiftLeft_eq, Nat.shiftRight_eq_div_pow]
  omega

theorem mergeLatchHigh_toNat (l : Index) (v : Byte) :
    (mergeLatchHigh l v).toNat = v.toNat % 32 * 256 + l.toNat % 256 := by
  simp only [mergeLatchHigh, BitVec.toNat_append, BitVec.extractLsb'_toNat, Nat.shiftRight_zero]
  rw [← Nat.shiftLeft_add_eq_or_of_lt (Nat.mod_lt _ (by decide)), Nat.shiftLeft_eq]

theorem controlScrollXHigh_toNat (v : Byte) : (controlScrollXHigh v).toNat = v.toNat % 4 := by
  simp [controlScrollXHigh, BitVec.extractLsb'_toNat]

theorem controlScrollYHigh_toNat (v : Byte) : (controlScrollYHigh v).toNat = v.toNat / 16 % 4 := by
  simp [controlScrollYHigh, BitVec.extractLsb'_toNat, Nat.shiftRight_eq_div_pow]

end Sys2Proof.Machine
end

