-- ==== Sys2Proof/Laws/Scanout.lean ====
section
/-! SUPPORT. The scanout engine: a pixel depends on nothing but the registers and VRAM's bytes, and the framebuffer a pass
leaves, byte by byte. -/

namespace Sys2Proof.Machine

/-- A pixel is a function of the registers and of what VRAM reads as (45_scanout.md R138). -/
theorem pixel_congr {s t : State} (hx : t.scrollX = s.scrollX) (hy : t.scrollY = s.scrollY)
    (hzx : t.zoomX = s.zoomX) (hzy : t.zoomY = s.zoomY) (ht : t.textMode = s.textMode)
    (hm : ∀ b i, vramByte t b i = vramByte s b i) (x y : Nat) : pixel t x y = pixel s x y := by
  simp only [pixel, pixelAt, videoX, videoY, hx, hy, hzx, hzy, ht, hm]

theorem render_congr {s t : State} (hx : t.scrollX = s.scrollX) (hy : t.scrollY = s.scrollY)
    (hzx : t.zoomX = s.zoomX) (hzy : t.zoomY = s.zoomY) (ht : t.textMode = s.textMode)
    (hm : ∀ b i, vramByte t b i = vramByte s b i) : render t = render s := by
  simp only [render, renderByte, pixel_congr hx hy hzx hzy ht hm]

theorem render_getElem? (s : State) {i : Nat} (h : i < 1228800) : (render s)[i]? = some (renderByte s i) := by
  rw [Vector.getElem?_eq_getElem h, render, Vector.getElem_ofFn]

/-- The byte of a pixel's channel stands at `4*(Y*640+X)` plus the channel (45_scanout.md R139). -/
theorem renderByte_at (s : State) {x c : Nat} (y : Nat) (hx : x < 640) (hc : c < 4) :
    renderByte s (4 * (y * 640 + x) + c) = (pixel s x y).channel c := by
  have h1 : (4 * (y * 640 + x) + c) / 4 = y * 640 + x := by omega
  have h2 : (y * 640 + x) % 640 = x := by omega
  have h3 : (y * 640 + x) / 640 = y := by omega
  have h4 : (4 * (y * 640 + x) + c) % 4 = c := by omega
  simp only [renderByte, Config.screenW, h1, h2, h3, h4]

section Fields

variable (vx vy : Scroll)

theorem tileX_toNat : (tileX vx).toNat = vx.toNat / 8 := by
  have := vx.isLt
  simp only [tileX, BitVec.extractLsb'_toNat, Nat.shiftRight_eq_div_pow]
  omega

theorem tileY_graphics_toNat : (tileY false vy).toNat = vy.toNat / 8 % 64 := by
  simp [tileY, BitVec.extractLsb'_toNat, Nat.shiftRight_eq_div_pow]

theorem tileY_text_toNat : (tileY true vy).toNat = vy.toNat / 16 % 32 * 2 + vy.toNat / 512 := by
  have := vy.isLt
  simp only [tileY, if_true, BitVec.toNat_append, BitVec.extractLsb'_toNat]
  rw [← Nat.shiftLeft_add_eq_or_of_lt (by omega), Nat.shiftLeft_eq]
  simp only [Nat.shiftRight_eq_div_pow]
  omega

theorem patternAddr_toNat (n : Byte) :
    (patternAddr n vx vy).toNat = n.toNat * 32 + vy.toNat / 2 % 4 * 8 + vx.toNat % 8 := by
  simp only [patternAddr, BitVec.toNat_append, BitVec.extractLsb'_toNat]
  rw [← Nat.shiftLeft_add_eq_or_of_lt (by omega), ← Nat.shiftLeft_add_eq_or_of_lt (by omega), Nat.shiftLeft_eq,
    Nat.shiftLeft_eq]
  simp only [Nat.shiftRight_eq_div_pow]
  omega

end Fields

end Sys2Proof.Machine
end

