-- ==== Sys2Proof/Laws/Step.lean ====
section
/-! SUPPORT. Said once: the state every instruction answers, field by field, and what one step of the schedule can do.
Every frame and invariant is derived from these lemmas, not by unfolding the meanings again. -/

namespace Sys2Proof.Machine

open Sys2Proof.Safety

/-- The state an instruction answers (`exec_eq_after`: it always answers one). -/
def after (i : Instr) (s : State) : State :=
  match exec i s with
  | .next t => t
  | .fault _ => s
  | .refused _ => s

theorem execInSerPop_eq (s : State) : execInSerPop s = .next (deliver (s.fifo.headD 0) (fifoPop s)) := by
  cases s with
  | mk _ _ _ _ _ _ _ _ fifo _ _ _ _ _ => cases fifo <;> rfl

theorem execInSerStatus_empty {s : State} (h : s.fifo = []) : execInSerStatus s = .next (deliver 0 s) := by
  simp [execInSerStatus, fifoNonEmpty, h]

theorem execInSerStatus_nonEmpty {s : State} (h : s.fifo ≠ []) :
    execInSerStatus s = .next (deliver (Config.freeStatus s.fifoChanges) s) := by
  simp [execInSerStatus, fifoNonEmpty, h]

/-- Every transaction answers a next state, in every state (44_unmapped.md R132). -/
theorem exec_eq_after (i : Instr) (s : State) : exec i s = .next (after i s) := by
  unfold after
  cases i
  case inSerPop => simp only [exec, execInSerPop_eq]
  case inSerStatus =>
    by_cases h : s.fifo = []
    · simp only [exec, execInSerStatus_empty h]
    · simp only [exec, execInSerStatus_nonEmpty h]
  all_goals rfl

theorem after_inSerPop (s : State) : after .inSerPop s = deliver (s.fifo.headD 0) (fifoPop s) := by
  simp only [after, exec, execInSerPop_eq]

theorem after_inSerStatus_empty {s : State} (h : s.fifo = []) : after .inSerStatus s = deliver 0 s := by
  simp only [after, exec, execInSerStatus_empty h]

theorem after_inSerStatus_nonEmpty {s : State} (h : s.fifo ≠ []) :
    after .inSerStatus s = deliver (Config.freeStatus s.fifoChanges) s := by
  simp only [after, exec, execInSerStatus_nonEmpty h]

/-- A status read writes no element of the block's state (43_serial_fifo.md R112). -/
theorem after_inSerStatus_sameBlock (s : State) : SameBlock s (after .inSerStatus s) := by
  by_cases h : s.fifo = []
  · rw [after_inSerStatus_empty h]
    exact ⟨⟨rfl, rfl, rfl, rfl, rfl⟩, rfl, rfl, rfl, rfl, rfl⟩
  · rw [after_inSerStatus_nonEmpty h]
    exact ⟨⟨rfl, rfl, rfl, rfl, rfl⟩, rfl, rfl, rfl, rfl, rfl⟩

/-- A status read changes nothing but what has been delivered (43_serial_fifo.md R112). -/
theorem after_inSerStatus_fifoChanges (s : State) : (after .inSerStatus s).fifoChanges = s.fifoChanges := by
  by_cases h : s.fifo = []
  · rw [after_inSerStatus_empty h]; rfl
  · rw [after_inSerStatus_nonEmpty h]; rfl

theorem after_inSerStatus_pending (s : State) : (after .inSerStatus s).pending = s.pending := by
  by_cases h : s.fifo = []
  · rw [after_inSerStatus_empty h]; rfl
  · rw [after_inSerStatus_nonEmpty h]; rfl

section After

variable (i : Instr) (s : State)

/-- No transaction writes the framebuffer (10_state.md R20). -/
theorem after_fb : (after i s).fb = s.fb := by
  cases i
  case inSerPop => rw [after_inSerPop]; rfl
  case inSerStatus => exact (after_inSerStatus_sameBlock s).2.2.2.2.2
  all_goals rfl

/-- No transaction changes the schedule. -/
theorem after_pending : (after i s).pending = s.pending := by
  cases i
  case inSerPop => rw [after_inSerPop]; rfl
  case inSerStatus => exact after_inSerStatus_pending s
  all_goals rfl

/-- The FIFO is shortened by `IN SER_POP` alone (10_state.md R19). -/
theorem after_fifo : (after i s).fifo = if i = .inSerPop then s.fifo.tail else s.fifo := by
  cases i
  case inSerPop => rw [after_inSerPop]; rfl
  case inSerStatus => exact (after_inSerStatus_sameBlock s).2.2.2.2.1
  all_goals rfl

/-- The counter of FIFO changes stays where the FIFO does (20_memory.md R38; log 7). -/
theorem after_fifoChanges (h : (after i s).fifo = s.fifo) : (after i s).fifoChanges = s.fifoChanges := by
  cases i
  case inSerPop =>
    rw [after_inSerPop] at h ⊢
    exact if_pos h
  case inSerStatus => exact after_inSerStatus_fifoChanges s
  all_goals rfl

/-- VRAM is written by the OUT bank forms alone, at the latch (20_memory.md R47). -/
theorem after_vram : (after i s).vram =
    match bankStore i with
    | some (b, v) => memWrite s.vram (vramAddr b s.latch).toNat v
    | none => s.vram := by
  cases i
  case inSerPop => rw [after_inSerPop]; rfl
  case inSerStatus => exact (after_inSerStatus_sameBlock s).2.2.1
  all_goals rfl

/-- The latch after an instruction (30_encoding.md R59, 42_vram_access.md R92). -/
theorem after_latch : (after i s).latch.toNat = latchAfter i s.latch.toNat := by
  cases i
  case inSerPop => rw [after_inSerPop]; rfl
  case inSerStatus => rw [(after_inSerStatus_sameBlock s).2.1]; rfl
  case outLatchLo v => exact mergeLatchLow_toNat s.latch v
  case outLatchHi v => exact mergeLatchHigh_toNat s.latch v
  all_goals rfl

/-- The dirty flag is set by the scroll and control writes and by a bank write that changes the byte, and cleared by no
transaction (10_state.md R18). -/
theorem after_dirty : (after i s).dirty =
    match scrollXLowWritten i, scrollYLowWritten i, controlWritten i, bankStore i with
    | none, none, none, some (b, v) => if vramByte s b s.latch = v then s.dirty else true
    | none, none, none, none => s.dirty
    | _, _, _, _ => true := by
  cases i
  case inSerPop => rw [after_inSerPop]; rfl
  case inSerStatus => exact (after_inSerStatus_sameBlock s).2.2.2.1
  all_goals first | rfl | exact dirtyAfterStore_eq _ _ _

/-- `scrollX` after an instruction (30_encoding.md R58). -/
theorem after_scrollX : (after i s).scrollX =
    match scrollXLowWritten i, controlWritten i with
    | some v, _ => mergeScrollLow s.scrollX v
    | none, some v => mergeScrollHigh s.scrollX (controlScrollXHigh v)
    | none, none => s.scrollX := by
  cases i
  case inSerPop => rw [after_inSerPop]; rfl
  case inSerStatus => exact (after_inSerStatus_sameBlock s).1.1
  all_goals rfl

/-- `scrollY` after an instruction (30_encoding.md R58). -/
theorem after_scrollY : (after i s).scrollY =
    match scrollYLowWritten i, controlWritten i with
    | some v, _ => mergeScrollLow s.scrollY v
    | none, some v => mergeScrollHigh s.scrollY (controlScrollYHigh v)
    | none, none => s.scrollY := by
  cases i
  case inSerPop => rw [after_inSerPop]; rfl
  case inSerStatus => exact (after_inSerStatus_sameBlock s).1.2.1
  all_goals rfl

/-- The mode flags are written by `OUT CONTROL` alone (10_state.md R13 to R15). -/
theorem after_modes : ((after i s).zoomX, (after i s).zoomY, (after i s).textMode) =
    match controlWritten i with
    | some v => (controlZoomX v, controlZoomY v, controlTextMode v)
    | none => (s.zoomX, s.zoomY, s.textMode) := by
  cases i
  case inSerPop => rw [after_inSerPop]; rfl
  case inSerStatus =>
    have h := (after_inSerStatus_sameBlock s).1
    simp [h.2.2.1, h.2.2.2.1, h.2.2.2.2, controlWritten]
  all_goals rfl

/-- A transaction keeps VRAM's canonical form. -/
theorem after_wf (h : Memory.wf s.vram) : Memory.wf (after i s).vram := by
  rw [after_vram]
  split
  · exact memWrite_wf h (vramAddr_lt _ _) _
  · exact h

end After

/-- The state a stimulus answers (`perform_eq_performed`: it always answers one). -/
def performed (pm : PortMap) (table : ScancodeTable) (e : Stimulus) (s : State) : State :=
  match e with
  | .transaction op => after (decodeWith pm op) s
  | .redraw => redrawStep s
  | .keyEvent k t => keyEventStep table k t s

theorem perform_eq_performed (pm : PortMap) (table : ScancodeTable) (e : Stimulus) (s : State) :
    perform pm table e s = .next (performed pm table e s) := by
  cases e with
  | transaction op => exact exec_eq_after _ _
  | redraw => rfl
  | keyEvent k t => rfl

/-- No agent's step moves the counter of FIFO changes but by changing the FIFO (20_memory.md R38; log 7). -/
theorem performed_fifoChanges {pm : PortMap} {table : ScancodeTable} {e : Stimulus} {s : State}
    (h : (performed pm table e s).fifo = s.fifo) : (performed pm table e s).fifoChanges = s.fifoChanges := by
  cases e with
  | transaction op => exact after_fifoChanges _ s h
  | redraw =>
    simp only [performed, redrawStep]
    split <;> rfl
  | keyEvent k t => exact if_pos h

/-- One step: nothing with an empty schedule, else the oldest stimulus performed on the state without it. -/
theorem stepWith_cases {pm : PortMap} {table : ScancodeTable} {s t : State} (h : stepWith pm table s = .next t) :
    (s.pending = [] ∧ t = s) ∨
      ∃ e rest, s.pending = e :: rest ∧ t = performed pm table e { s with pending := rest } := by
  unfold stepWith at h
  split at h
  · rename_i he
    exact .inl ⟨he, (Host.Outcome.next.inj h).symm⟩
  · rename_i e rest he
    rw [perform_eq_performed] at h
    exact .inr ⟨e, rest, he, (Host.Outcome.next.inj h).symm⟩

/-- A sequence of instructions answers the state of each in turn. -/
theorem execAll_eq (is : List Instr) (s : State) : execAll is s = .next (is.foldl (fun s i => after i s) s) := by
  induction is generalizing s with
  | nil => rfl
  | cons i is ih => simp only [execAll, exec_eq_after, ih, List.foldl_cons]

/-- A schedule answers the state of each stimulus in turn. -/
theorem performAll_eq (pm : PortMap) (table : ScancodeTable) (es : List Stimulus) (s : State) :
    performAll pm table es s = .next (es.foldl (fun s e => performed pm table e s) s) := by
  induction es generalizing s with
  | nil => rfl
  | cons e es ih => simp only [performAll, perform_eq_performed, ih, List.foldl_cons]

end Sys2Proof.Machine
end

