-- ==== Sys2Proof/Tests/Slice0.lean ====
section
/-! SUPPORT. The model's own tests: words written out from 30_encoding.md R51 and R54, the vectors of
95_test_vectors.md (named at each test), and for every obligation with hypotheses a concrete case that meets them. -/

namespace Sys2Proof.Tests

open Sys2Proof.Machine Sys2Proof.Safety

/-- A field of the state an outcome goes on in. -/
def got {α : Type} (f : State → α) : Host.Outcome State Fault Refusal → Option α
  | .next s => some (f s)
  | .fault _ => none
  | .refused _ => none

/-- A clean state: power-up with `dirty` cleared. -/
def clean : State := { State.reset with dirty := false }

/-! ## Well-formedness: the one check, and what it refuses -/

theorem test_wellFormed_refuses_mapped_out : (Instr.outUnmapped 0x00 0x12).wellFormed = false := by decide
theorem test_wellFormed_refuses_mapped_in : (Instr.inUnmapped 0x0E).wellFormed = false := by decide
theorem test_wellFormed_allows_unmapped :
    (Instr.outUnmapped 0x0F 0x12).wellFormed = true ∧ (Instr.inUnmapped 0xFF).wellFormed = true := by decide

/-! ## Decoding: words written out bit by bit (direction, port, data) from 30_encoding.md R51 and the ports of R54 -/

theorem test_decode_video :
    decodeWord referencePortMap 0b1_00000000_10100101 = .outScrollxLo 0xA5 ∧
    decodeWord referencePortMap 0b0_00000000_00000000 = .inScrollxLo ∧
    decodeWord referencePortMap 0b1_00000001_10100101 = .outScrollyLo 0xA5 ∧
    decodeWord referencePortMap 0b0_00000001_00000000 = .inScrollyLo ∧
    decodeWord referencePortMap 0b1_00000010_10100101 = .outControl 0xA5 ∧
    decodeWord referencePortMap 0b0_00000010_00000000 = .inControl := by decide

theorem test_encode_video :
    encode (.outScrollxLo 0xA5) = 0b1_00000000_10100101 ∧
    encode .inScrollxLo = 0b0_00000000_00000000 ∧
    encode (.outScrollyLo 0xA5) = 0b1_00000001_10100101 ∧
    encode .inScrollyLo = 0b0_00000001_00000000 ∧
    encode (.outControl 0xA5) = 0b1_00000010_10100101 ∧
    encode .inControl = 0b0_00000010_00000000 := by decide

theorem test_decode_latch :
    decodeWord referencePortMap 0b1_00000011_10100101 = .outLatchLo 0xA5 ∧
    decodeWord referencePortMap 0b0_00000011_00000000 = .inLatchLo ∧
    decodeWord referencePortMap 0b1_00000100_10100101 = .outLatchHi 0xA5 ∧
    decodeWord referencePortMap 0b0_00000100_00000000 = .inLatchHi := by decide

theorem test_encode_latch :
    encode (.outLatchLo 0xA5) = 0b1_00000011_10100101 ∧
    encode .inLatchLo = 0b0_00000011_00000000 ∧
    encode (.outLatchHi 0xA5) = 0b1_00000100_10100101 ∧
    encode .inLatchHi = 0b0_00000100_00000000 := by decide

theorem test_decode_bank :
    decodeWord referencePortMap 0b1_00000101_10100101 = .outName 0xA5 ∧
    decodeWord referencePortMap 0b0_00000101_00000000 = .inName ∧
    decodeWord referencePortMap 0b1_00000110_10100101 = .outColor 0xA5 ∧
    decodeWord referencePortMap 0b0_00000110_00000000 = .inColor ∧
    decodeWord referencePortMap 0b1_00000111_10100101 = .outPattern 0xA5 ∧
    decodeWord referencePortMap 0b0_00000111_00000000 = .inPattern ∧
    decodeWord referencePortMap 0b1_00001000_10100101 = .outPalette 0xA5 ∧
    decodeWord referencePortMap 0b0_00001000_00000000 = .inPalette := by decide

theorem test_encode_bank :
    encode (.outName 0xA5) = 0b1_00000101_10100101 ∧
    encode .inName = 0b0_00000101_00000000 ∧
    encode (.outColor 0xA5) = 0b1_00000110_10100101 ∧
    encode .inColor = 0b0_00000110_00000000 ∧
    encode (.outPattern 0xA5) = 0b1_00000111_10100101 ∧
    encode .inPattern = 0b0_00000111_00000000 ∧
    encode (.outPalette 0xA5) = 0b1_00001000_10100101 ∧
    encode .inPalette = 0b0_00001000_00000000 := by decide

theorem test_decode_bankInc :
    decodeWord referencePortMap 0b1_00001001_10100101 = .outNameInc 0xA5 ∧
    decodeWord referencePortMap 0b0_00001001_00000000 = .inNameInc ∧
    decodeWord referencePortMap 0b1_00001010_10100101 = .outColorInc 0xA5 ∧
    decodeWord referencePortMap 0b0_00001010_00000000 = .inColorInc ∧
    decodeWord referencePortMap 0b1_00001011_10100101 = .outPatternInc 0xA5 ∧
    decodeWord referencePortMap 0b0_00001011_00000000 = .inPatternInc ∧
    decodeWord referencePortMap 0b1_00001100_10100101 = .outPaletteInc 0xA5 ∧
    decodeWord referencePortMap 0b0_00001100_00000000 = .inPaletteInc := by decide

theorem test_encode_bankInc :
    encode (.outNameInc 0xA5) = 0b1_00001001_10100101 ∧
    encode .inNameInc = 0b0_00001001_00000000 ∧
    encode (.outColorInc 0xA5) = 0b1_00001010_10100101 ∧
    encode .inColorInc = 0b0_00001010_00000000 ∧
    encode (.outPatternInc 0xA5) = 0b1_00001011_10100101 ∧
    encode .inPatternInc = 0b0_00001011_00000000 ∧
    encode (.outPaletteInc 0xA5) = 0b1_00001100_10100101 ∧
    encode .inPaletteInc = 0b0_00001100_00000000 := by decide

theorem test_decode_serial :
    decodeWord referencePortMap 0b1_00001101_10100101 = .outSerPop 0xA5 ∧
    decodeWord referencePortMap 0b0_00001101_00000000 = .inSerPop ∧
    decodeWord referencePortMap 0b1_00001110_10100101 = .outSerStatus 0xA5 ∧
    decodeWord referencePortMap 0b0_00001110_00000000 = .inSerStatus := by decide

theorem test_encode_serial :
    encode (.outSerPop 0xA5) = 0b1_00001101_10100101 ∧
    encode .inSerPop = 0b0_00001101_00000000 ∧
    encode (.outSerStatus 0xA5) = 0b1_00001110_10100101 ∧
    encode .inSerStatus = 0b0_00001110_00000000 := by decide

theorem test_decode_unmapped :
    decodeWord referencePortMap 0b1_00001111_10011001 = .outUnmapped 0x0F 0x99 ∧
    decodeWord referencePortMap 0b1_11111111_00000000 = .outUnmapped 0xFF 0x00 ∧
    decodeWord referencePortMap 0b0_10000000_00000000 = .inUnmapped 0x80 := by decide

/-- The data bits of an IN word are ignored (spec/opcode_table.json, field d). -/
theorem test_decode_in_ignores_data : decodeWord referencePortMap 0b0_00001101_11111111 = .inSerPop := by decide

theorem test_decode_rejects_by_name :
    decodeBytes referencePortMap [0x34, 0x03] = .error .tooFewBytes ∧
    decodeBytes referencePortMap [0x34, 0x03, 0x02] = .error .widerThanSeventeenBits ∧
    decodeBytes referencePortMap [0x34, 0x03, 0x01, 0xEE] = .ok (.outLatchLo 0x34, [0xEE]) := ⟨rfl, rfl, rfl⟩

theorem test_decodeTableWord :
    decodeTableWord 24 0x10334 = some (.outLatchLo 0x34) ∧ decodeTableWord 24 0x00D00 = some .inSerPop ∧
    decodeTableWord 24 0x20000 = none ∧ decodeTableWord 24 0x1000000 = none := by decide

theorem test_placed_word_runs_first_after_reset :
    got (fun t => (t.latch, t.pending)) (step (State.reset.withFetchWord 24 0x10334)) = some (0x0034, []) := by decide

/-! ## Video registers (95_test_vectors.md L1-3 and L2) -/

theorem test_scrollx_lo : got (fun t => (t.scrollX, t.dirty)) (exec (.outScrollxLo 0x12) { clean with scrollX := 0x2AB }) =
    some (0x212, true) := by decide
theorem test_scrollx_lo_same_byte :
    got (fun t => (t.scrollX, t.dirty)) (exec (.outScrollxLo 0xAB) { clean with scrollX := 0x2AB }) =
    some (0x2AB, true) := by decide
theorem test_scrolly_lo : got (fun t => t.scrollY) (exec (.outScrollyLo 0x00) { clean with scrollY := 0x3FF }) =
    some 0x300 := by decide
theorem test_control_c5 :
    got (fun t => (t.textMode, t.zoomY, t.scrollY, t.zoomX, t.scrollX)) (exec (.outControl 0xC5) State.reset) =
    some (true, true, 0x000, true, 0x100) := by decide
theorem test_control_keeps_low_parts :
    got (fun t => (t.scrollX, t.scrollY, t.dirty)) (exec (.outControl 0x37) { clean with scrollX := 0x0FF, scrollY := 0x0EE }) =
    some (0x3FF, 0x3EE, true) := by decide
theorem test_setvideo :
    got (fun t => (t.scrollX, t.scrollY, t.textMode)) (execAll (setVideoProgram 0x1FD 0 false false true) State.reset) =
    some (0x1FD, 0, true) := by decide
theorem test_setvideo_expansion : setVideoProgram 0x1FD 0 false false true =
    [.outScrollxLo 0xFD, .outScrollyLo 0x00, .outControl 0x81] := by decide

/-! ## Latch (95_test_vectors.md L1-2 and L2) -/

theorem test_latch_lo : got (fun t => (t.latch, t.dirty)) (exec (.outLatchLo 0x34) { clean with latch := 0x1F00 }) =
    some (0x1F34, false) := by decide
theorem test_latch_hi_discards : got (fun t => (t.latch, t.dirty)) (exec (.outLatchHi 0xFF) { clean with latch := 0x0034 }) =
    some (0x1F34, false) := by decide
theorem test_latch_hi_clears : got (fun t => t.latch) (exec (.outLatchHi 0x20) { clean with latch := 0x1F34 }) =
    some 0x0034 := by decide

/-! ## Reads of write-only roles: a free byte, no state (40_video_registers.md R73) -/

theorem test_write_only_reads :
    exec .inScrollxLo clean = .next (deliverFree clean) ∧ exec .inScrollyLo clean = .next (deliverFree clean) ∧
    exec .inControl clean = .next (deliverFree clean) ∧ exec .inLatchLo clean = .next (deliverFree clean) ∧
    exec .inLatchHi clean = .next (deliverFree clean) ∧ (deliverFree clean).delivered = [Config.freeByte 0] :=
  ⟨rfl, rfl, rfl, rfl, rfl, rfl⟩

/-! ## VRAM access (95_test_vectors.md L1-2, L1-5 and L2) -/

theorem test_out_name_equal_byte : got (fun t => (t.dirty, t.latch))
    (exec (.outName 0x11) { clean with latch := 0x0234, vram := [(0x0234, 0x11)] }) = some (false, 0x0234) := by decide
theorem test_out_name_new_byte : got (fun t => (t.dirty, t.latch))
    (exec (.outName 0x22) { clean with latch := 0x0234, vram := [(0x0234, 0x11)] }) = some (true, 0x0234) := by decide
theorem test_out_color_reads_back :
    got (fun t => vramByte t .color 0x0010) (exec (.outColor 0x43) { clean with latch := 0x0010, vram := [(0x2010, 0x42)] }) =
    some 0x43 := by simp [got, exec, execOutColor, vramByte_vramStore]
theorem test_out_color_equal_byte : got (fun t => t.dirty)
    (exec (.outColor 0x42) { clean with latch := 0x0010, vram := [(0x2010, 0x42)] }) = some false := by decide
theorem test_out_pattern_bank : got (fun t => (vramByte t .pattern 0x33, vramByte t .palette 0x33))
    (exec (.outPattern 0x5C) { clean with latch := 0x33, vram := [(0x6033, 0x07)] }) = some (0x5C, 0x07) := by
  simp [got, exec, execOutPattern, vramByte_vramStore]
  decide
theorem test_out_palette_dirty : got (fun t => t.dirty)
    (exec (.outPalette 0xC3) { clean with latch := 0x2C, vram := [(0x602C, 0xC2)] }) = some true := by decide
theorem test_out_name_inc : got (fun t => (t.latch, t.dirty))
    (exec (.outNameInc 0x5A) { clean with latch := 0x1FFF, vram := [(0x1FFF, 0x01)] }) = some (0x0000, true) := by decide
theorem test_out_color_inc : got (fun t => (t.latch, vramByte t .color 0x0000))
    (exec (.outColorInc 0x10) { clean with latch := 0x0000 }) = some (0x0001, 0x10) := by
  have h := vramByte_vramStore .color .color 0x10 { clean with latch := 0x0000 } 0x0000
  simpa [got, exec, execOutColorInc, bankWriteInc, vramByte_latchIncrement] using h
theorem test_out_pattern_inc_carries : got (fun t => t.latch) (exec (.outPatternInc 0x5A) { clean with latch := 0x00FF }) =
    some 0x0100 := by decide
theorem test_out_palette_inc_wraps : got (fun t => (t.latch, t.dirty))
    (exec (.outPaletteInc 0x5A) { clean with latch := 0x1FFF, vram := [(0x7FFF, 0x5A)] }) = some (0x0000, false) := by decide
theorem test_in_banks :
    got (fun t => (t.delivered, t.latch)) (exec .inName { clean with latch := 0x1234, vram := [(0x1234, 0x77)] }) =
      some ([0x77], 0x1234) ∧
    got (fun t => (t.delivered, t.latch)) (exec .inColor { clean with latch := 0x1234, vram := [(0x3234, 0x78)] }) =
      some ([0x78], 0x1234) ∧
    got (fun t => (t.delivered, t.latch)) (exec .inPattern { clean with latch := 0x1234, vram := [(0x5234, 0x79)] }) =
      some ([0x79], 0x1234) ∧
    got (fun t => (t.delivered, t.latch)) (exec .inPalette { clean with latch := 0x1234, vram := [(0x7234, 0x7A)] }) =
      some ([0x7A], 0x1234) := by decide
theorem test_in_banks_inc :
    got (fun t => (t.delivered, t.latch)) (exec .inNameInc { clean with latch := 0x1FFF, vram := [(0x1FFF, 0x77)] }) =
      some ([0x77], 0x0000) ∧
    got (fun t => (t.delivered, t.latch)) (exec .inColorInc { clean with latch := 0x1234, vram := [(0x3234, 0x77)] }) =
      some ([0x77], 0x1235) ∧
    got (fun t => (t.delivered, t.latch)) (exec .inPatternInc { clean with latch := 0x1FFF, vram := [(0x5FFF, 0x79)] }) =
      some ([0x79], 0x0000) ∧
    got (fun t => (t.delivered, t.dirty)) (exec .inPaletteInc { clean with latch := 0x1234, vram := [(0x7234, 0x7A)] }) =
      some ([0x7A], false) := by decide

/-! ## FIFO (95_test_vectors.md L1-6 and L2) and unmapped ports -/

/-- The table of 95_test_vectors.md P4, values chosen for a parameter: key 1 and, with no release sequence, key 2. -/
def p4Table : ScancodeTable := fun k =>
  if k = 1 then some { pressFirst := 0x1C, pressRest := [], release := some [0xF0, 0x1C] }
  else if k = 2 then some { pressFirst := 0xE1, pressRest := [0x14, 0x77, 0xE1, 0xF0, 0x14, 0xF0, 0x77], release := none }
  else none

theorem test_ser_pop : got (fun t => (t.delivered, t.fifo)) (exec .inSerPop { clean with fifo := [0x1C, 0xF0, 0x1C] }) =
    some ([0x1C], [0xF0, 0x1C]) := by decide
theorem test_ser_pop_empty : got (fun t => (t.delivered, t.fifo)) (exec .inSerPop clean) = some ([0x00], []) := by decide
theorem test_ser_status_empty : got (fun t => (t.delivered, t.fifo)) (exec .inSerStatus clean) = some ([0x00], []) := by decide
theorem test_ser_status_non_empty : got (fun t => (t.delivered, t.fifo)) (exec .inSerStatus { clean with fifo := [0x00] }) =
    some ([Config.freeStatus 0], [0x00]) := rfl
theorem test_out_ser_ignored :
    got (fun t => t.fifo) (exec (.outSerPop 0xAA) { clean with fifo := [0x1C] }) = some [0x1C] ∧
    got (fun t => t.fifo) (exec (.outSerStatus 0x01) clean) = some [] := by decide
theorem test_key_press_release : (keyEventStep p4Table 1 .release (keyEventStep p4Table 1 .press clean)).fifo =
    [0x1C, 0xF0, 0x1C] := by decide
theorem test_key_unknown_and_no_release : (keyEventStep p4Table 3 .press { clean with fifo := [0x1C] }).fifo = [0x1C] ∧
    (keyEventStep p4Table 2 .release clean).fifo = [] := by decide
theorem test_unmapped : exec (.outUnmapped 0x0F 0x99) clean = .next clean ∧
    got (fun t => t.delivered) (exec (.inUnmapped 0x80) clean) = some [0x00] := ⟨rfl, by decide⟩

/-! ## Scanout (95_test_vectors.md L1-4 and L2) -/

theorem test_videoX :
    videoCoord false 2 3 0 639 = 642 ∧ videoCoord true 2 3 0 1 = 2 ∧ videoCoord true 2 3 0 639 = 321 ∧
    videoCoord false 2 3 1023 0 = 2 ∧ videoCoord true 2 3 0x17D 639 = 702 := by decide
theorem test_videoY :
    videoCoord false 2 4 0 479 = 483 ∧ videoCoord true 2 4 0x3FE 479 = 239 ∧ videoCoord true 3 4 0x3FE 479 = 240 ∧
    videoCoord false 2 4 0x3FD 0 = 1 := by decide
theorem test_tile_rows :
    [0x000, 0x008, 0x010, 0x1FF, 0x200, 0x208, 0x3FF].map (fun vy : Scroll =>
      (tileY false vy, tileY true vy, palettePage false vy, palettePage true vy)) =
    [(0, 0, 0, 0), (1, 0, 0, 1), (2, 2, 0, 0), (63, 62, 0, 1), (0, 1, 1, 0), (1, 1, 1, 1), (63, 63, 1, 1)] := by decide
theorem test_palette_bytes :
    [0x00, 0xFF, 0x03, 0x80, 0xAA, 0xF0, 0x40, 0x55, 0xC3].map (fun p : Byte =>
      let c := paletteColour p; (c.r.toNat, c.g.toNat, c.b.toNat, c.a.toNat)) =
    [(0, 0, 0, 255), (187, 187, 187, 255), (51, 51, 51, 255), (136, 0, 0, 255), (170, 170, 170, 255),
     (170, 170, 0, 255), (34, 0, 0, 255), (51, 51, 51, 255), (187, 51, 51, 255)] := by decide

/-- VRAM of the whole-pixel vector: name, color, pattern and two palette bytes. -/
def pixelState : State :=
  { clean with vram := [(0x0000, 0x01), (0x2000, 0x02), (0x4033, 0x5C), (0x6025, 0x30), (0x602C, 0xC3)] }

theorem test_pixel_0_0 : pixel pixelState 0 0 = ⟨187, 51, 51, 255⟩ := by decide
theorem test_pixel_0_1 : pixel pixelState 0 1 = ⟨0, 170, 0, 255⟩ := by decide
theorem test_pixel_steps_0_1 : stepsPaletteByte 2 pixelState 0 1 = 0x30 := by decide

/-- A redraw step with `dirty` set leaves pixel (0, 1) at bytes 2560 to 2563 (95_test_vectors.md P2) and clears `dirty`. -/
theorem test_redraw_places_pixel :
    (redrawStep { pixelState with dirty := true }).fb[2561]? = some 170 ∧
    (redrawStep { pixelState with dirty := true }).dirty = false := by
  refine ⟨?_, rfl⟩
  show (render { pixelState with dirty := true })[2561]? = some 170
  rw [render_getElem? _ (by decide)]
  decide

theorem test_redraw_clean_does_nothing : redrawStep pixelState = pixelState := rfl

/-! ## Witnesses: for each obligation with hypotheses, a case that meets them all -/

theorem witness_ResetState : 0 < 1228800 ∧ 1228799 < 1228800 := by decide

theorem witness_PortDecodeSelectsRole :
    Function.Injective referencePortMap ∧ (0x00 : Byte) = referencePortMap .scrollxLo ∧
    (0x0E : Byte) = referencePortMap .serStatus ∧ (∀ r, (0x0F : Byte) ≠ referencePortMap r) ∧
    ∀ r, (0xFF : Byte) ≠ referencePortMap r :=
  ⟨referencePortMap_injective, rfl, rfl, fun r => by cases r <;> decide, fun r => by cases r <;> decide⟩

theorem witness_DecodeOfEncode : Function.Injective referencePortMap ∧
    (Instr.outUnmapped 0x0F 0xFF).wellFormedFor referencePortMap = true ∧
    (Instr.outControl 0xFF).wellFormedFor referencePortMap = true := ⟨referencePortMap_injective, by decide, rfl⟩

theorem witness_StepRunsDecodedTransaction :
    (issue (.transaction (.read 0x0D)) clean).pending = .transaction (.read 0x0D) :: [] := rfl

theorem witness_ModeFlagsOnlyByControl : ∃ t,
    stepWith referencePortMap p4Table (issue (.transaction (.write 0x02 0x80)) clean) = .next t ∧
    t.textMode ≠ clean.textMode := ⟨_, rfl, by decide⟩

theorem witness_LatchChangesOnlyAsAssembled : ∃ t,
    stepWith referencePortMap p4Table (issue (.transaction (.read 0x09)) { clean with latch := 0x1FFF }) = .next t ∧
    t.latch ≠ 0x1FFF := ⟨_, rfl, by decide⟩

theorem witness_AutoIncrementRun : ∀ i ∈ [Instr.outNameInc 0xA1, .inPaletteInc], autoIncrement i = true := by decide

theorem witness_WideLatchCannotBeToldApart : (0xFFFF : BitVec 16).toNat % 8192 =
    ({ clean with latch := 0x1FFF } : State).latch.toNat ∧ (0xE000 : BitVec 16).toNat % 8192 = clean.latch.toNat := by decide

theorem witness_PhysicalAddresses : vramAddr .palette 0x1FFF = vramAddr .palette 0x1FFF := rfl

/-- For the equal-byte clauses of DirectBankWrite and IncBankWrite, for WritesAreIdempotent and for MemoryFormKept. -/
theorem witness_Memory_wf : Memory.wf clean.vram := ⟨List.Pairwise.nil, by simp [clean, State.reset]⟩

theorem witness_MemoryFormKept : ∃ t,
    stepWith referencePortMap p4Table (issue (.transaction (.write 0x05 0x01)) clean) = .next t := ⟨_, rfl⟩

theorem witness_VramOnlyByBankWrite : ∃ t,
    stepWith referencePortMap p4Table (issue (.transaction (.write 0x08 0x22)) { clean with vram := [(0x6000, 0x11)] }) = .next t ∧
    vramByte t .palette 0 ≠ vramByte { clean with vram := [(0x6000, 0x11)] } .palette 0 := by
  refine ⟨_, rfl, ?_⟩
  rw [show vramByte { clean with vram := [(0x6000, 0x11)] } .palette 0 = 0x11 by decide]
  rw [vramByte_vramStore, if_pos (by decide)]
  decide

theorem witness_SerialPop : ({ clean with fifo := [0x00] } : State).fifo = 0x00 :: [] ∧ clean.fifo = [] := ⟨rfl, rfl⟩

theorem witness_SerialStatus : ({ clean with fifo := [0x00] } : State).fifo ≠ [] ∧ clean.fifo = [] := by decide

theorem witness_KeyEventAppends : p4Table 3 = none ∧
    (∃ e, p4Table 1 = some e ∧ e.release = some [0xF0, 0x1C]) ∧ ∃ e, p4Table 2 = some e ∧ e.release = none :=
  ⟨rfl, ⟨_, rfl, rfl⟩, _, rfl, rfl⟩

theorem witness_FifoNonEmptyUntilPop : ∃ t,
    stepWith referencePortMap p4Table (issue (.transaction (.read 0x0D)) { clean with fifo := [0x1C] }) = .next t ∧
    t.fifo = [] := ⟨_, rfl, rfl⟩

theorem witness_UnmappedPorts : (∀ r, referencePortMap r ≠ 0x0F) ∧ 0x0F ≤ (0x0F : Byte).toNat ∧ 0x0F ≤ (0xFF : Byte).toNat :=
  ⟨fun r => by cases r <;> decide, by decide, by decide⟩

theorem witness_ReadsWithSideEffects : plainRead .inSerStatus = true ∧ plainRead .inControl = true ∧
    ({ clean with fifo := [0x1C] } : State).fifo ≠ [] ∧ clean.fifo = [] := by decide

/-- Power-up memory lists nothing; a cell elsewhere does not list address 1. For DirectBankRead and IncBankRead. -/
theorem witness_DirectBankRead : (∀ c ∈ State.reset.vram, c.1 ≠ 0x7FFF) ∧
    ∀ c ∈ ([(0, 0x11)] : Memory), c.1 ≠ 1 := by decide

/-- A redraw tick and two reads change neither the latch, the byte there nor the FIFO. -/
theorem unchanged_by_reads {α : Type} (f : State → α) (q : List Byte)
    (h : ∀ v n, f { clean with fifo := q, delivered := v, draws := n } = f { clean with fifo := q }) :
    UnchangedAlong f referencePortMap p4Table [.redraw, .transaction (.read 0x02), .transaction (.read 0x05)]
      { clean with fifo := q } := fun n =>
  match n with
  | 0 => ⟨_, rfl, rfl⟩
  | 1 => ⟨_, rfl, rfl⟩
  | 2 => ⟨_, rfl, h _ _⟩
  | n + 3 => by
    rw [List.take_of_length_le (by simp)]
    exact ⟨_, rfl, h _ _⟩

theorem witness_RepeatedReadsAgree :
    let es := [Stimulus.redraw, .transaction (.read 0x02), .transaction (.read 0x05)]
    let s := { clean with fifo := [0x1C] }
    UnchangedAlong (fun t => t.fifo) referencePortMap p4Table es s ∧
    (UnchangedAlong (fun t => t.fifo) referencePortMap p4Table es { clean with fifo := [] } ∧ clean.fifo = []) ∧
    ∀ b, UnchangedAlong (fun t => (t.latch, vramByte t b t.latch)) referencePortMap p4Table es s :=
  ⟨unchanged_by_reads _ _ fun _ _ => rfl, ⟨unchanged_by_reads _ _ fun _ _ => rfl, rfl⟩,
   fun _ => unchanged_by_reads _ _ fun _ _ => rfl⟩

/-- A second status read of the same FIFO returns the same byte (20_memory.md R38). -/
theorem test_ser_status_repeats :
    got (fun t => t.delivered.take 2) (execAll [.inSerStatus, .inControl, .inSerStatus] { clean with fifo := [0x1C] }) =
      some [Config.freeStatus 0, Config.freeByte 0] ∧
    got (fun t => t.delivered.drop 2) (execAll [.inSerStatus, .inControl, .inSerStatus] { clean with fifo := [0x1C] }) =
      some [Config.freeStatus 0] := ⟨rfl, rfl⟩

theorem witness_HorizontalVideoCoordinate : ({ clean with zoomX := true } : State).zoomX = true := rfl

/-- Two states that agree on the video state and differ in latch, dirty flag and FIFO. -/
theorem witness_PixelReadsOnlyVideoState :
    let s := pixelState
    let t := { pixelState with latch := 5, dirty := true, fifo := [0x1C] }
    s.latch ≠ t.latch ∧ t.scrollX = s.scrollX ∧ t.scrollY = s.scrollY ∧ t.zoomX = s.zoomX ∧ t.zoomY = s.zoomY ∧
    t.textMode = s.textMode ∧ ∀ b i, vramByte t b i = vramByte s b i :=
  ⟨by decide, rfl, rfl, rfl, rfl, rfl, fun _ _ => rfl⟩

theorem witness_RedrawPass : (issue .redraw State.reset).pending = .redraw :: [] ∧
    (issue .redraw State.reset).dirty = true ∧ (issue .redraw clean).dirty = false ∧ 639 < 640 ∧ 479 < 480 := by decide

theorem witness_FramebufferOnlyByRedraw : ∃ t,
    stepWith referencePortMap p4Table (issue .redraw { State.reset with fb := Vector.replicate 1228800 0 }) = .next t ∧
    t.fb ≠ Vector.replicate 1228800 0 := by
  refine ⟨_, rfl, fun h => ?_⟩
  have h3 := congrArg (fun f : Framebuffer => f[3]?) h
  simp only [Vector.getElem?_replicate] at h3
  have e := render_getElem? { State.reset with fb := Vector.replicate 1228800 0 } (i := 3) (by decide)
  have ea : renderByte { State.reset with fb := Vector.replicate 1228800 0 } 3 = 255 := rfl
  rw [ea] at e
  exact absurd (e.symm.trans h3) (by decide)

theorem witness_DirtyChangesOnlyAsListed :
    (∃ t, stepWith referencePortMap p4Table (issue .redraw State.reset) = .next t ∧ t.dirty = false) ∧
    ∃ t, stepWith referencePortMap p4Table (issue (.transaction (.write 0x00 0x00)) clean) = .next t ∧
      clean.dirty = false ∧ t.dirty = true := ⟨⟨_, rfl, rfl⟩, _, rfl, rfl, rfl⟩

/-- A coherent state whose `dirty` is clear: power-up after one pass. -/
theorem witness_FramebufferCoherenceKept : Coherent (redrawStep State.reset) ∧ (redrawStep State.reset).dirty = false ∧
    ∃ t, stepWith referencePortMap p4Table (redrawStep State.reset) = .next t :=
  ⟨fun _ => rfl, rfl, _, rfl⟩

theorem witness_FramebufferCoherentAlongSchedules : State.reset.dirty = true := rfl

theorem witness_TileMapStructure : (0x010 : Scroll).toNat / 16 = (0x01F : Scroll).toNat / 16 ∧
    (0x000 : Scroll).toNat % 16 < 8 ∧ (0x007 : Scroll).toNat % 16 < 8 ∧ (0x3F7 : Scroll).toNat % 16 < 8 := by decide

end Sys2Proof.Tests
end

section
/-! PROOFS of the family 20_memory.md: what holds along every schedule of the three agents (the FIFO's bytes, the
coherence of the framebuffer, repeated reads), and the idempotent writes. -/

namespace Sys2Proof.Machine

open Sys2Proof.Safety

/-! ## Schedules -/

section Schedules

variable {pm : PortMap} {table : ScancodeTable} {es : List Stimulus} {s : State}

theorem performAll_cons (e : Stimulus) :
    performAll pm table (e :: es) s = performAll pm table es (performed pm table e s) := by
  rw [performAll, perform_eq_performed]

/-- What every agent's step keeps holds at the end of every schedule (20_memory.md R42). -/
theorem performAll_keeps {P : State → Prop} (keep : ∀ e u, P u → P (performed pm table e u)) (h : P s) :
    ∃ t, performAll pm table es s = .next t ∧ P t := by
  induction es generalizing s with
  | nil => exact ⟨s, rfl, h⟩
  | cons e es ih =>
    rw [performAll_cons]
    exact ih (keep e s h)

end Schedules

/-! ## The FIFO along a schedule -/

theorem popCount_cons (pm : PortMap) (e : Stimulus) (es : List Stimulus) :
    popCount pm (e :: es) = popCount pm [e] + popCount pm es := by
  rw [popCount, ← List.singleton_append, List.filterMap_append, List.count_append]
  rfl

/-- One agent's step takes at most a pop's byte from the FIFO's head and adds a key event's bytes at its tail
(10_state.md R19). -/
theorem performed_fifo_conserved (pm : PortMap) (table : ScancodeTable) (e : Stimulus) (s : State) :
    ∃ removed, s.fifo ++ hostBytes table e = removed ++ (performed pm table e s).fifo ∧
      removed.length ≤ popCount pm [e] := by
  cases e with
  | transaction op =>
    by_cases hpop : decodeWith pm op = .inSerPop
    · refine ⟨s.fifo.take 1, ?_, ?_⟩
      · simp [performed, after_fifo, hpop, hostBytes, ← List.drop_one]
      · simp [popCount, cpuInstr, hpop]
    · exact ⟨[], by simp [performed, after_fifo, hpop, hostBytes], Nat.zero_le _⟩
  | redraw =>
    refine ⟨[], ?_, Nat.zero_le _⟩
    simp only [performed, redrawStep, hostBytes, List.append_nil, List.nil_append]
    split <;> rfl
  | keyEvent k t => exact ⟨[], rfl, Nat.zero_le _⟩

/-- Settles O35, by induction on the schedule: the bytes a step removes come before those the rest removes. -/
theorem fifoKeepsEveryByteInOrder : Obligations.FifoKeepsEveryByteInOrder := by
  intro pm table es
  induction es with
  | nil => exact fun s => ⟨s, [], rfl, List.append_nil _, Nat.zero_le _⟩
  | cons e es ih =>
    intro s
    obtain ⟨first, hfirst, hfirstLen⟩ := performed_fifo_conserved pm table e s
    obtain ⟨t, later, hrun, hlater, hlaterLen⟩ := ih (performed pm table e s)
    refine ⟨t, first ++ later, performAll_cons e ▸ hrun, ?_, ?_⟩
    · rw [List.flatMap_cons, ← List.append_assoc, hfirst, List.append_assoc, hlater, List.append_assoc]
    · rw [List.length_append, popCount_cons]
      exact Nat.add_le_add hfirstLen hlaterLen

/-! ## The framebuffer's coherence -/

/-- While `dirty` is set, coherence asks nothing of the framebuffer (20_memory.md R46). -/
theorem coherent_of_dirty {s : State} (h : s.dirty = true) : Coherent s := fun hclean => by simp [h] at hclean

/-- A step that moves neither `dirty`, the framebuffer nor what the picture shows keeps coherence. -/
theorem coherent_congr {s t : State} (hd : t.dirty = s.dirty) (hf : t.fb = s.fb) (hr : render t = render s)
    (h : Coherent s) : Coherent t := fun hclean => by rw [hf, hr, h (hd ▸ hclean)]

/-- A transaction that leaves `dirty` clear has written no register the picture reads, and no byte but the one already
at its address (10_state.md R18). -/
theorem nothing_shown_written_of_clean {i : Instr} {s : State} (h : (after i s).dirty = false) :
    s.dirty = false ∧ scrollXLowWritten i = none ∧ scrollYLowWritten i = none ∧ controlWritten i = none ∧
      ∀ b v, bankStore i = some (b, v) → vramByte s b s.latch = v := by
  rw [after_dirty] at h
  split at h
  next b v hx hy hc hb =>
    split at h
    next hsame =>
      refine ⟨h, hx, hy, hc, fun b' v' hb' => ?_⟩
      obtain ⟨rfl, rfl⟩ := Prod.mk.inj (Option.some.inj (hb.symm.trans hb'))
      exact hsame
    next => cases h
  next hx hy hc hb => exact ⟨h, hx, hy, hc, fun b v hb' => by simp [hb] at hb'⟩
  next => cases h

/-- A transaction that stores no byte but the one already at its address leaves what VRAM reads as (42_vram_access.md
R91). -/
theorem vramByte_after_of_equal_store {i : Instr} {s : State}
    (h : ∀ b v, bankStore i = some (b, v) → vramByte s b s.latch = v) (c : Bank) (j : Index) :
    vramByte (after i s) c j = vramByte s c j := by
  rw [vramByte, after_vram]
  split
  next b v hb =>
    rw [memRead_memWrite]
    split
    next ha => rw [← h b v hb, vramByte, vramByte, ha]
    next => rfl
  next => rfl

/-- A transaction that leaves `dirty` clear leaves the picture as it was (20_memory.md R46). -/
theorem render_after_of_clean {i : Instr} {s : State} (h : (after i s).dirty = false) :
    render (after i s) = render s := by
  obtain ⟨-, hx, hy, hc, hb⟩ := nothing_shown_written_of_clean h
  have hmodes := after_modes i s
  simp only [hc, Prod.mk.injEq] at hmodes
  obtain ⟨hzx, hzy, ht⟩ := hmodes
  exact render_congr (by simp only [after_scrollX, hx, hc]) (by simp only [after_scrollY, hy, hc]) hzx hzy ht
    (vramByte_after_of_equal_store hb)

theorem after_coherent {s : State} (h : Coherent s) (i : Instr) : Coherent (after i s) := fun hclean => by
  rw [after_fb, render_after_of_clean hclean]
  exact h (nothing_shown_written_of_clean hclean).1

theorem redrawStep_coherent {s : State} (h : Coherent s) : Coherent (redrawStep s) := by
  unfold redrawStep
  split
  · exact fun _ => (render_congr rfl rfl rfl rfl rfl fun _ _ => rfl).symm
  · exact h

theorem fifoPush_coherent {s : State} (h : Coherent s) (bs : List Byte) : Coherent (fifoPush bs s) :=
  coherent_congr rfl rfl (render_congr rfl rfl rfl rfl rfl fun _ _ => rfl) h

theorem performed_coherent {pm : PortMap} {table : ScancodeTable} (e : Stimulus) (s : State) (h : Coherent s) :
    Coherent (performed pm table e s) := by
  cases e with
  | transaction op => exact after_coherent h _
  | redraw => exact redrawStep_coherent h
  | keyEvent k t => exact fifoPush_coherent h _

/-- Settles O52: a transaction that leaves `dirty` clear changes nothing that is shown, a pass draws the state it finds,
and a key event touches the FIFO alone. -/
theorem framebufferCoherenceKept : Obligations.FramebufferCoherenceKept := by
  intro pm table s t hs hstep
  obtain ⟨-, rfl⟩ | ⟨e, rest, -, rfl⟩ := stepWith_cases hstep
  · exact hs
  · exact performed_coherent e _ (coherent_congr rfl rfl (render_congr rfl rfl rfl rfl rfl fun _ _ => rfl) hs)

/-- Settles O54: every agent's step keeps coherence, and a state with `dirty` set has it. -/
theorem framebufferCoherentAlongSchedules : Obligations.FramebufferCoherentAlongSchedules := fun _ _ _ =>
  ⟨performAll_keeps performed_coherent (coherent_of_dirty rfl),
   fun _ hd => performAll_keeps performed_coherent (coherent_of_dirty hd)⟩

/-! ## Idempotent writes -/

theorem mergeScrollLow_mergeScrollLow (x : Scroll) (v : Byte) :
    mergeScrollLow (mergeScrollLow x v) v = mergeScrollLow x v := by
  have := v.isLt
  apply BitVec.eq_of_toNat_eq
  simp only [mergeScrollLow_toNat]
  omega

theorem mergeScrollHigh_mergeScrollHigh (x : Scroll) (h : BitVec 2) :
    mergeScrollHigh (mergeScrollHigh x h) h = mergeScrollHigh x h := by
  apply BitVec.eq_of_toNat_eq
  simp only [mergeScrollHigh_toNat]
  omega

theorem mergeLatchLow_mergeLatchLow (l : Index) (v : Byte) :
    mergeLatchLow (mergeLatchLow l v) v = mergeLatchLow l v := by
  have := v.isLt
  apply BitVec.eq_of_toNat_eq
  simp only [mergeLatchLow_toNat]
  omega

theorem mergeLatchHigh_mergeLatchHigh (l : Index) (v : Byte) :
    mergeLatchHigh (mergeLatchHigh l v) v = mergeLatchHigh l v := by
  apply BitVec.eq_of_toNat_eq
  simp only [mergeLatchHigh_toNat]
  omega

/-- The second store finds its byte in place, so it changes no state (42_vram_access.md R91). -/
theorem vramStore_vramStore (b : Bank) (v : Byte) {s : State} (h : Memory.wf s.vram) :
    vramStore b v (vramStore b v s) = vramStore b v s := by
  have hbyte : vramByte (vramStore b v s) b (vramStore b v s).latch = v := by
    rw [vramByte_vramStore, vramStore_latch, if_pos ⟨rfl, rfl⟩]
  have hsame := vramStore_same b (vramStore b v s) (memWrite_wf h (vramAddr_lt b s.latch) v)
  rwa [hbyte] at hsame

/-- Settles O39: each register merge is idempotent, and so is the store at an unmoved latch. -/
theorem writesAreIdempotent : Obligations.WritesAreIdempotent := by
  intro mk hmk v s hwf
  simp only [List.mem_cons, List.not_mem_nil, or_false] at hmk
  obtain rfl | rfl | rfl | rfl | rfl | rfl | rfl | rfl | rfl := hmk
  · exact ⟨_, rfl, by simp [exec, execOutScrollxLo, markDirty, mergeScrollLow_mergeScrollLow]⟩
  · exact ⟨_, rfl, by simp [exec, execOutScrollyLo, markDirty, mergeScrollLow_mergeScrollLow]⟩
  · exact ⟨_, rfl, by simp [exec, execOutControl, markDirty, mergeScrollHigh_mergeScrollHigh]⟩
  · exact ⟨_, rfl, by simp [exec, execOutLatchLo, mergeLatchLow_mergeLatchLow]⟩
  · exact ⟨_, rfl, by simp [exec, execOutLatchHi, mergeLatchHigh_mergeLatchHigh]⟩
  · exact ⟨_, rfl, congrArg Host.Outcome.next (vramStore_vramStore .name v hwf)⟩
  · exact ⟨_, rfl, congrArg Host.Outcome.next (vramStore_vramStore .color v hwf)⟩
  · exact ⟨_, rfl, congrArg Host.Outcome.next (vramStore_vramStore .pattern v hwf)⟩
  · exact ⟨_, rfl, congrArg Host.Outcome.next (vramStore_vramStore .palette v hwf)⟩

/-! ## Repeated reads -/

section Reads

variable {pm : PortMap} {table : ScancodeTable} {es : List Stimulus} {s : State}

/-- A read whose byte is a function `g` of the state reads again what it read, where a schedule leaves `g`. -/
theorem readsAgain_of_returns {i : Instr} {g : State → Byte} (hread : ∀ u, Returns i u (g u))
    (hrun : ∃ t, performAll pm table es s = .next t ∧ g t = g s) : ReadsAgain i pm table es s := by
  obtain ⟨t, ht, hg⟩ := hrun
  exact ⟨t, g s, ht, hread s, hg ▸ hread t⟩

theorem unchangedAlong_final {α : Type} {f : State → α} (h : UnchangedAlong f pm table es s) :
    ∃ t, performAll pm table es s = .next t ∧ f t = f s := by
  have hall := h es.length
  rwa [List.take_length] at hall

theorem unchangedAlong_cons {α : Type} {f : State → α} {e : Stimulus} (h : UnchangedAlong f pm table (e :: es) s) :
    f (performed pm table e s) = f s ∧ UnchangedAlong f pm table es (performed pm table e s) := by
  have hfirst : f (performed pm table e s) = f s := by
    obtain ⟨t, ht, hf⟩ := h 1
    rw [List.take_succ_cons, performAll_cons, List.take_zero] at ht
    exact Host.Outcome.next.inj ht ▸ hf
  refine ⟨hfirst, fun n => ?_⟩
  obtain ⟨t, ht, hf⟩ := h (n + 1)
  exact ⟨t, by rwa [List.take_succ_cons, performAll_cons] at ht, hf.trans hfirst.symm⟩

/-- A schedule that never changes the FIFO leaves the counter that selects the status byte too (20_memory.md R38;
log 7). -/
theorem unchangedAlong_fifo_final (h : UnchangedAlong (fun t => t.fifo) pm table es s) :
    ∃ t, performAll pm table es s = .next t ∧ t.fifo = s.fifo ∧ t.fifoChanges = s.fifoChanges := by
  induction es generalizing s with
  | nil => exact ⟨s, rfl, rfl, rfl⟩
  | cons e es ih =>
    obtain ⟨hfirst, hrest⟩ := unchangedAlong_cons h
    obtain ⟨t, hrun, hfifo, hcount⟩ := ih hrest
    exact ⟨t, performAll_cons e ▸ hrun, hfifo.trans hfirst, hcount.trans (performed_fifoChanges hfirst)⟩

/-- The byte a status read returns (43_serial_fifo.md R112; log 7). -/
def statusByte (s : State) : Byte := if s.fifo = [] then 0 else Config.freeStatus s.fifoChanges

theorem returns_inSerStatus (u : State) : Returns .inSerStatus u (statusByte u) := by
  refine ⟨after .inSerStatus u, exec_eq_after _ _, ?_⟩
  by_cases hempty : u.fifo = []
  · rw [after_inSerStatus_empty hempty, statusByte, if_pos hempty, deliver_delivered]
  · rw [after_inSerStatus_nonEmpty hempty, statusByte, if_neg hempty, deliver_delivered]

theorem returns_inSerPop (u : State) : Returns .inSerPop u (u.fifo.headD 0) :=
  ⟨after .inSerPop u, exec_eq_after _ _, by rw [after_inSerPop, deliver_delivered, fifoPop_delivered]⟩

/-- A direct read of bank `b` reads again the byte at the latch, where no step moves the latch or changes that byte. -/
theorem readsAgain_of_directRead {b : Bank} {i : Instr} (hread : ∀ u, exec i u = .next (bankRead b u))
    (h : UnchangedAlong (fun t => (t.latch, vramByte t b t.latch)) pm table es s) : ReadsAgain i pm table es s := by
  obtain ⟨t, hrun, hsame⟩ := unchangedAlong_final h
  exact readsAgain_of_returns (g := fun u => vramByte u b u.latch) (fun u => ⟨_, hread u, rfl⟩)
    ⟨t, hrun, (Prod.mk.inj hsame).2⟩

end Reads

/-- Settles O56: each of these reads returns a function of the state that the schedule leaves: the byte at the latch,
the status byte (by the FIFO and its counter of changes), the FIFO's head, or 0x00. -/
theorem repeatedReadsAgree : Obligations.RepeatedReadsAgree := by
  intro pm table es s
  refine ⟨fun r hr hsame => ?_, fun hsame => ?_, fun p => ?_⟩
  · simp only [List.mem_cons, List.not_mem_nil, or_false] at hr
    obtain rfl | rfl | rfl | rfl := hr
    all_goals exact readsAgain_of_directRead (fun _ => rfl) hsame
  · obtain ⟨t, hrun, hfifo, hcount⟩ := unchangedAlong_fifo_final hsame
    exact ⟨readsAgain_of_returns returns_inSerStatus ⟨t, hrun, by rw [statusByte, statusByte, hfifo, hcount]⟩,
      fun _ => readsAgain_of_returns returns_inSerPop ⟨t, hrun, by rw [hfifo]⟩⟩
  · exact readsAgain_of_returns (g := fun _ => 0) (fun _ => ⟨_, rfl, rfl⟩)
      ⟨_, performAll_eq pm table es s, rfl⟩

end Sys2Proof.Machine
end

section
/-! PROOFS of the family 30_encoding.md: the port decode, what the latch changes by, and the scroll offsets along every
schedule of the three agents. -/

namespace Sys2Proof.Machine

open Sys2Proof.Safety

/-! ## The other two agents -/

/-- A redraw pass and a key event leave the scroll offsets and the latch (30_encoding.md R58, R59). -/
theorem performed_scroll_latch_of_not_cpu {pm : PortMap} {table : ScancodeTable} {e : Stimulus} {s : State}
    (h : cpuInstr pm e = none) :
    (performed pm table e s).scrollX = s.scrollX ∧ (performed pm table e s).scrollY = s.scrollY ∧
      (performed pm table e s).latch = s.latch := by
  cases e with
  | transaction op => cases h
  | redraw =>
    simp only [performed, redrawStep]
    split <;> exact ⟨rfl, rfl, rfl⟩
  | keyEvent k t => exact ⟨rfl, rfl, rfl⟩

/-! ## The last byte written, along a schedule -/

theorem lastWritten_cons (pm : PortMap) (f : Instr → Option Byte) (e : Stimulus) (es : List Stimulus) :
    lastWritten pm f (e :: es) = (lastWritten pm f es).or ((cpuInstr pm e).bind f) := by
  unfold lastWritten
  rw [← List.singleton_append, List.filterMap_append, List.filterMap_append, List.getLast?_append]
  congr 1
  cases hi : cpuInstr pm e with
  | none => simp [hi]
  | some i => cases hf : f i <;> simp [hi, hf]

/-- A part of the state that each transaction replaces by `g` of the byte `f` finds in it, and that the other agents
leave, is `g` of the byte last written, or what it was at the start. -/
theorem performAll_part_eq_lastWritten {pm : PortMap} {table : ScancodeTable} {part : State → Nat}
    {f : Instr → Option Byte} {g : Byte → Nat}
    (cpu : ∀ i u, part (after i u) = ((f i).map g).getD (part u))
    (others : ∀ e u, cpuInstr pm e = none → part (performed pm table e u) = part u)
    {es : List Stimulus} {s t : State} (hrun : performAll pm table es s = .next t) :
    part t = ((lastWritten pm f es).map g).getD (part s) := by
  induction es generalizing s with
  | nil => exact Host.Outcome.next.inj hrun ▸ rfl
  | cons e es ih =>
    have hfirst : part (performed pm table e s) = (((cpuInstr pm e).bind f).map g).getD (part s) := by
      cases e with
      | transaction op => exact cpu (decodeWith pm op) s
      | redraw => exact others _ s rfl
      | keyEvent k t => exact others _ s rfl
    rw [performAll_cons] at hrun
    rw [ih hrun, hfirst, lastWritten_cons]
    cases lastWritten pm f es <;> rfl

/-! ## The parts of a scroll offset (30_encoding.md R58) -/

/-- A scroll offset with its low byte and its bits 9:8 replaced, each where something is written to it. -/
def writeScroll (low : Option Byte) (high : Option (BitVec 2)) (x : Scroll) : Scroll :=
  let lowDone := low.elim x (mergeScrollLow x)
  high.elim lowDone (mergeScrollHigh lowDone)

theorem mergeScrollLow_parts (x : Scroll) (v : Byte) :
    (mergeScrollLow x v).toNat % 256 = v.toNat ∧ (mergeScrollLow x v).toNat / 256 = x.toNat / 256 := by
  have := v.isLt
  rw [mergeScrollLow_toNat]
  omega

theorem mergeScrollHigh_parts (x : Scroll) (h : BitVec 2) :
    (mergeScrollHigh x h).toNat % 256 = x.toNat % 256 ∧ (mergeScrollHigh x h).toNat / 256 = h.toNat := by
  rw [mergeScrollHigh_toNat]
  omega

/-- Each part is replaced without disturbing the other. -/
theorem writeScroll_parts (low : Option Byte) (high : Option (BitVec 2)) (x : Scroll) :
    (writeScroll low high x).toNat % 256 = (low.map BitVec.toNat).getD (x.toNat % 256) ∧
      (writeScroll low high x).toNat / 256 = (high.map BitVec.toNat).getD (x.toNat / 256) := by
  cases high with
  | none =>
    cases low with
    | none => exact ⟨rfl, rfl⟩
    | some v => exact mergeScrollLow_parts x v
  | some h =>
    cases low with
    | none => exact mergeScrollHigh_parts x h
    | some v =>
      obtain ⟨hlow, hhigh⟩ := mergeScrollHigh_parts (mergeScrollLow x v) h
      exact ⟨hlow.trans (mergeScrollLow_parts x v).1, hhigh⟩

section Parts

variable (i : Instr) (s : State)

theorem after_scrollX_eq_writeScroll : (after i s).scrollX =
    writeScroll (scrollXLowWritten i) ((controlWritten i).map controlScrollXHigh) s.scrollX := by
  rw [after_scrollX]
  cases i <;> rfl

theorem after_scrollY_eq_writeScroll : (after i s).scrollY =
    writeScroll (scrollYLowWritten i) ((controlWritten i).map controlScrollYHigh) s.scrollY := by
  rw [after_scrollY]
  cases i <;> rfl

theorem after_scrollX_low : (after i s).scrollX.toNat % 256 =
    ((scrollXLowWritten i).map BitVec.toNat).getD (s.scrollX.toNat % 256) := by
  rw [after_scrollX_eq_writeScroll, (writeScroll_parts _ _ _).1]

theorem after_scrollY_low : (after i s).scrollY.toNat % 256 =
    ((scrollYLowWritten i).map BitVec.toNat).getD (s.scrollY.toNat % 256) := by
  rw [after_scrollY_eq_writeScroll, (writeScroll_parts _ _ _).1]

theorem after_scrollX_high : (after i s).scrollX.toNat / 256 =
    ((controlWritten i).map fun v => v.toNat % 4).getD (s.scrollX.toNat / 256) := by
  rw [after_scrollX_eq_writeScroll, (writeScroll_parts _ _ _).2, Option.map_map,
    ← funext controlScrollXHigh_toNat]
  rfl

theorem after_scrollY_high : (after i s).scrollY.toNat / 256 =
    ((controlWritten i).map fun v => v.toNat / 16 % 4).getD (s.scrollY.toNat / 256) := by
  rw [after_scrollY_eq_writeScroll, (writeScroll_parts _ _ _).2, Option.map_map,
    ← funext controlScrollYHigh_toNat]
  rfl

end Parts

/-- Settles O12: each transaction writes a part whole or leaves it, and the other agents leave both offsets. -/
theorem scrollIsWhatWasLastWritten : Obligations.ScrollIsWhatWasLastWritten := by
  refine ⟨⟨rfl, rfl⟩, fun pm table es s => ?_⟩
  have keepsX (e : Stimulus) (u : State) (h : cpuInstr pm e = none) :
      (performed pm table e u).scrollX = u.scrollX := (performed_scroll_latch_of_not_cpu h).1
  have keepsY (e : Stimulus) (u : State) (h : cpuInstr pm e = none) :
      (performed pm table e u).scrollY = u.scrollY := (performed_scroll_latch_of_not_cpu h).2.1
  have hrun := performAll_eq pm table es s
  exact ⟨_, hrun,
    performAll_part_eq_lastWritten (part := fun u => u.scrollX.toNat % 256) after_scrollX_low
      (fun e u h => by rw [keepsX e u h]) hrun,
    performAll_part_eq_lastWritten (part := fun u => u.scrollX.toNat / 256) after_scrollX_high
      (fun e u h => by rw [keepsX e u h]) hrun,
    performAll_part_eq_lastWritten (part := fun u => u.scrollY.toNat % 256) after_scrollY_low
      (fun e u h => by rw [keepsY e u h]) hrun,
    performAll_part_eq_lastWritten (part := fun u => u.scrollY.toNat / 256) after_scrollY_high
      (fun e u h => by rw [keepsY e u h]) hrun⟩

/-! ## The port decode -/

theorem decodeWith_of_role {pm : PortMap} {p : Byte} {r : Role} (h : pm.roleAt p = some r) (v : Byte) :
    decodeWith pm (.write p v) = r.outInstr v ∧ decodeWith pm (.read p) = r.inInstr := by
  simp only [decodeWith, h, and_self]

theorem decodeWith_of_no_role {pm : PortMap} {p : Byte} (h : pm.roleAt p = none) (v : Byte) :
    decodeWith pm (.write p v) = .outUnmapped p v ∧ decodeWith pm (.read p) = .inUnmapped p := by
  simp only [decodeWith, h, and_self]

/-- Settles O2: under an injective map the first role found at a port is its only one. -/
theorem portDecodeSelectsRole : Obligations.PortDecodeSelectsRole := by
  intro pm hinj p v
  refine ⟨fun r hp => ?_, fun hp => ?_⟩
  · exact decodeWith_of_role (hp ▸ roleAt_port hinj r) v
  · exact decodeWith_of_no_role (roleAt_unmapped fun r => (hp r).symm) v

/-! ## The latch -/

/-- Settles O16: the latch after an instruction is `latchAfter`, and the agents beside the CPU leave it. -/
theorem latchChangesOnlyAsAssembled : Obligations.LatchChangesOnlyAsAssembled := by
  refine ⟨fun i s => ⟨_, exec_eq_after i s, after_latch i s⟩, fun pm table s t hstep hne => ?_⟩
  obtain ⟨-, rfl⟩ | ⟨e, rest, hpending, rfl⟩ := stepWith_cases hstep
  · exact absurd rfl hne
  · cases e with
    | transaction op => exact ⟨op, rest, hpending, after_latch _ _⟩
    | redraw => exact absurd (performed_scroll_latch_of_not_cpu (pm := pm) rfl).2.2 hne
    | keyEvent k t => exact absurd (performed_scroll_latch_of_not_cpu (pm := pm) rfl).2.2 hne

end Sys2Proof.Machine
end

section
/-! PROOFS of the family 41_latch.md: the two readings of the latch. Truncation to 13 bits takes each operation of the wide
latch to that of the 13-bit latch. -/

namespace Sys2Proof.Machine

open Sys2Proof.Safety

/-- `OUT LATCH_LO` leaves bits 12:8 alone in both readings (41_latch.md R84), bit by bit of the 13. -/
theorem wideLatchAfter_outLatchLo_setWidth (v : Byte) (w : BitVec 16) :
    (wideLatchAfter (.outLatchLo v) w).setWidth 13 = mergeLatchLow (w.setWidth 13) v := by
  ext j hj
  rw [wideLatchAfter, mergeLatchLow, BitVec.getElem_append (n := 5) (m := 8)]
  interval_cases j <;> simp

/-- `OUT LATCH_HI` sets bits 12:8 to `v[4:0]` in both readings (41_latch.md R84): `v[7:5]` is cut off. -/
theorem wideLatchAfter_outLatchHi_setWidth (v : Byte) (w : BitVec 16) :
    (wideLatchAfter (.outLatchHi v) w).setWidth 13 = mergeLatchHigh (w.setWidth 13) v := by
  ext j hj
  rw [wideLatchAfter, mergeLatchHigh, BitVec.getElem_append (n := 5) (m := 8)]
  interval_cases j <;> simp

theorem wideIncrement_toNat_mod (w : BitVec 16) : (wideIncrement w).toNat % 8192 = (w.toNat % 8192 + 1) % 8192 := by
  rw [wideIncrement, BitVec.toNat_ofNat]
  omega

/-- Truncation to 13 bits commutes with every instruction (41_latch.md R84). -/
theorem wideLatchAfter_toNat_mod (i : Instr) (w : BitVec 16) :
    (wideLatchAfter i w).toNat % 8192 = latchAfter i (w.toNat % 8192) := by
  cases i
  case outLatchLo v =>
    simpa [latchAfter, mergeLatchLow_toNat] using congrArg BitVec.toNat (wideLatchAfter_outLatchLo_setWidth v w)
  case outLatchHi v =>
    simpa [latchAfter, mergeLatchHigh_toNat] using congrArg BitVec.toNat (wideLatchAfter_outLatchHi_setWidth v w)
  case outNameInc | inNameInc | outColorInc | inColorInc | outPatternInc | inPatternInc | outPaletteInc | inPaletteInc =>
    exact wideIncrement_toNat_mod w
  all_goals rfl

/-- Settles O19, by induction on the sequence: each instruction keeps the wide latch modulo 8192 equal to the latch. -/
theorem wideLatchCannotBeToldApart : Obligations.WideLatchCannotBeToldApart := by
  intro is
  induction is with
  | nil => exact fun w s h => ⟨s, rfl, h⟩
  | cons i is ih =>
    intro w s h
    have hstep : (wideLatchAfter i w).toNat % 8192 = (after i s).latch.toNat := by
      rw [wideLatchAfter_toNat_mod, h, after_latch]
    rw [execAll, exec_eq_after]
    exact ih _ _ hstep

end Sys2Proof.Machine
end

section
/-! PROOFS of the family 42_vram_access.md: the direct bank writes, and the sequence that stores a tile. -/

namespace Sys2Proof.Machine

open Sys2Proof.Safety

/-! ## The direct writes -/

/-- Every role's OUT form, at its port of the reference map (30_encoding.md R53 to R55). -/
theorem outForm_referencePortMap (r : Role) : OutForm r (referencePortMap r) r.outInstr := by
  refine ⟨fun pm hinj v => (decodeWith_of_role (roleAt_port hinj r) v).1, fun v => ?_⟩
  have hread : PortOp.ofWord (1#1 ++ referencePortMap r ++ v : BitVec (1 + 8 + 8)) = .write (referencePortMap r) v :=
    PortOp.ofWord_toWord (.write (referencePortMap r) v)
  rw [decodeWord, hread]
  exact (decodeWith_of_role (roleAt_port referencePortMap_injective r) v).1

/-- A form that answers the bank's store is a direct write form of the bank (42_vram_access.md R91). -/
theorem directWrite_of_exec {b : Bank} {mk : Byte → Instr} (hexec : ∀ v s, exec (mk v) s = .next (vramStore b v s)) :
    DirectWrite b mk := by
  refine ⟨fun v s => ⟨memWrite s.vram (vramAddr b s.latch).toNat v, ?_, memRead_memWrite _ _ _⟩, fun s hwf => ?_⟩
  · rw [hexec, vramStore, dirtyAfterStore_eq]
  · rw [hexec, vramStore_same b s hwf]

/-- Settles O21: each of the four forms stands at its role's port and answers its bank's store. -/
theorem directBankWrite : Obligations.DirectBankWrite :=
  ⟨⟨outForm_referencePortMap .name, outForm_referencePortMap .color, outForm_referencePortMap .pattern,
      outForm_referencePortMap .palette⟩,
    directWrite_of_exec fun _ _ => rfl, directWrite_of_exec fun _ _ => rfl, directWrite_of_exec fun _ _ => rfl,
    directWrite_of_exec fun _ _ => rfl⟩

/-! ## The tile's sequence -/

/-- The two bytes of `SETLATCH a` put together are `a`, whatever the latch was (30_encoding.md R59, R64). -/
theorem mergeLatch_parts (l a : Index) :
    mergeLatchHigh (mergeLatchLow l (a.extractLsb' 0 8)) ((a.extractLsb' 8 5).setWidth 8) = a := by
  have ha := a.isLt
  apply BitVec.eq_of_toNat_eq
  simp only [mergeLatchHigh_toNat, mergeLatchLow_toNat, BitVec.toNat_setWidth, BitVec.extractLsb'_toNat,
    Nat.shiftRight_eq_div_pow]
  omega

/-- What follows `SETLATCH a` runs with the latch at `a` and all else as it was (30_encoding.md R64). -/
theorem execAll_setLatchProgram_append (a : Index) (is : List Instr) (s : State) :
    execAll (setLatchProgram a ++ is) s = execAll is { s with latch := a } := by
  simp only [setLatchProgram, List.cons_append, List.nil_append, execAll, exec, execOutLatchLo, execOutLatchHi,
    mergeLatch_parts]

/-- Settles O26: both stores are at latch `i`, each in its own bank, and only the second advances the latch. -/
theorem tileStoreSequence : Obligations.TileStoreSequence := by
  intro i n c s
  refine ⟨bankWriteInc .color c (vramStore .name n { s with latch := i }),
    execAll_setLatchProgram_append i _ s, ?_, fun b j => ?_⟩
  · simp only [bankWriteInc, latchIncrement_latch, vramStore_latch, latch_add_one, BitVec.toNat_ofNat]
    omega
  · rw [bankWriteInc, vramByte_latchIncrement, vramByte_vramStore, vramByte_vramStore, vramStore_latch]
    by_cases hname : b = .name
    · simp [hname, vramByte]
    · simp [hname, vramByte]

end Sys2Proof.Machine
end

section
/-! PROOFS of the family 43_serial_fifo.md: the pop of the scancode FIFO, and the keyboard host's step. -/

namespace Sys2Proof.Machine

open Sys2Proof.Safety

/-! ## The IN forms -/

/-- An IN word is read back as its port's read, whatever its data bits are (30_encoding.md R51; log 19). -/
theorem ofWord_read_of_any_data (p d : Byte) : PortOp.ofWord (0#1 ++ p ++ d : BitVec (1 + 8 + 8)) = .read p := by
  obtain ⟨hdir, hport, -⟩ := wordOfFields_fields 0#1 p d _ (wordOfFields_toNat 0#1 p d)
  simp only [PortOp.ofWord, hdir, hport]
  rfl

/-- Every role's IN form, at its port of the reference map (30_encoding.md R53 to R55). -/
theorem inForm_referencePortMap (r : Role) : InForm r (referencePortMap r) r.inInstr := by
  refine ⟨fun pm hinj => (decodeWith_of_role (roleAt_port hinj r) 0).2, fun d => ?_⟩
  rw [decodeWord, ofWord_read_of_any_data]
  exact (decodeWith_of_role (roleAt_port referencePortMap_injective r) 0).2

/-! ## The FIFO -/

/-- A FIFO set to what it holds is no change, and none is counted (log 7). -/
theorem setFifo_of_eq {q : List Byte} {s : State} (h : q = s.fifo) : setFifo q s = s := by
  simp only [setFifo, h, if_true]

theorem fifoPop_of_empty {s : State} (h : s.fifo = []) : fifoPop s = s :=
  setFifo_of_eq (by rw [h, List.tail_nil])

theorem fifoPush_nil (s : State) : fifoPush [] s = s := setFifo_of_eq (List.append_nil _)

theorem exec_inSerPop (s : State) : exec .inSerPop s = .next (deliver (s.fifo.headD 0) (fifoPop s)) := by
  rw [exec_eq_after, after_inSerPop]

theorem exec_inSerPop_cons {s : State} {b : Byte} {q : List Byte} (h : s.fifo = b :: q) :
    exec .inSerPop s = .next (deliver b (setFifo q s)) := by
  rw [exec_inSerPop, fifoPop, h, List.headD_cons, List.tail_cons]

theorem exec_inSerPop_empty {s : State} (h : s.fifo = []) : exec .inSerPop s = .next (deliver 0x00 s) := by
  rw [exec_inSerPop, fifoPop_of_empty h, h, List.headD_nil]

/-- Settles O30, by whether the FIFO holds a byte; the fields of each answer are read off. -/
theorem serialPop : Obligations.SerialPop :=
  ⟨inForm_referencePortMap .serPop, fun _ _ _ h => ⟨_, exec_inSerPop_cons h⟩, fun _ h => exec_inSerPop_empty h⟩

/-! ## The key event -/

section KeyEvent

variable {table : ScancodeTable} {k : KeyId} {e : Scancodes}

theorem keyBytes_unknown (h : table k = none) (t : KeyTransition) : keyBytes table k t = [] := by
  simp only [keyBytes, h]

theorem keyBytes_press (h : table k = some e) : keyBytes table k .press = e.pressFirst :: e.pressRest := by
  simp only [keyBytes, h]

theorem keyBytes_release (h : table k = some e) : keyBytes table k .release = e.release.getD [] := by
  simp only [keyBytes, h]

variable (pm : PortMap) {t : KeyTransition} {bs : List Byte} (s : State) (rest : List Stimulus)

/-- The step of a key event that comes next appends its bytes to the state without it (43_serial_fifo.md R115). -/
theorem stepWith_keyEvent (h : keyBytes table k t = bs) :
    stepWith pm table { s with pending := .keyEvent k t :: rest } = .next (fifoPush bs { s with pending := rest }) := by
  rw [← h]
  rfl

/-- A key event of no bytes changes nothing but the schedule. -/
theorem stepWith_keyEvent_of_no_bytes (h : keyBytes table k t = []) :
    stepWith pm table { s with pending := .keyEvent k t :: rest } = .next { s with pending := rest } := by
  rw [stepWith_keyEvent pm s rest h, fifoPush_nil]

/-- A key event changes the FIFO and the counter of its changes alone, beside the schedule. -/
theorem exists_stepWith_keyEvent (h : keyBytes table k t = bs) :
    ∃ n, stepWith pm table { s with pending := .keyEvent k t :: rest } =
      .next { s with pending := rest, fifo := s.fifo ++ bs, fifoChanges := n } :=
  ⟨_, stepWith_keyEvent pm s rest h⟩

end KeyEvent

/-- Settles O34, by what the table holds of the key: each case is a key event of the bytes found there. -/
theorem keyEventAppends : Obligations.KeyEventAppends := by
  intro pm table s k rest
  refine ⟨fun t hk => ?_, fun e hk => ?_, fun e bs hk hrelease => ?_, fun e hk hrelease => ?_⟩
  · exact stepWith_keyEvent_of_no_bytes pm s rest (keyBytes_unknown hk t)
  · exact exists_stepWith_keyEvent pm s rest (keyBytes_press hk)
  · have hbytes : keyBytes table k .release = bs := by rw [keyBytes_release hk, hrelease, Option.getD_some]
    exact exists_stepWith_keyEvent pm s rest hbytes
  · have hbytes : keyBytes table k .release = [] := by rw [keyBytes_release hk, hrelease, Option.getD_none]
    exact stepWith_keyEvent_of_no_bytes pm s rest hbytes

end Sys2Proof.Machine
end

section
/-! PROOFS of the family 44_unmapped.md: the ports of no role, and the transactions there. -/

namespace Sys2Proof.Machine

/-- An OUT word is read back as its port's write of its byte (30_encoding.md R51). -/
theorem ofWord_write (p v : Byte) : PortOp.ofWord (1#1 ++ p ++ v : BitVec (1 + 8 + 8)) = .write p v :=
  PortOp.ofWord_toWord (.write p v)

/-- The reference map puts every role below port 0x0F (30_encoding.md R54). -/
theorem referencePortMap_toNat_lt (r : Role) : (referencePortMap r).toNat < 0x0F := by
  cases r <;> decide

theorem referencePortMap_ne_of_le {p : Byte} (h : 0x0F ≤ p.toNat) (r : Role) : referencePortMap r ≠ p := by
  rintro rfl
  exact absurd (referencePortMap_toNat_lt r) (Nat.not_lt.mpr h)

/-- Both directions at a port of no role decode to the unmapped forms (30_encoding.md R55); no injectivity is needed. -/
theorem decodeWith_of_unmapped {pm : PortMap} {p : Byte} (h : ∀ r, pm r ≠ p) (v : Byte) :
    decodeWith pm (.write p v) = .outUnmapped p v ∧ decodeWith pm (.read p) = .inUnmapped p :=
  decodeWith_of_no_role (roleAt_unmapped h) v

/-- The words of ports 0x0F to 0xFF under the reference map, an IN word with any data bits (44_unmapped.md R130, R131). -/
theorem decodeWord_of_unmapped {p : Byte} (h : 0x0F ≤ p.toNat) (v d : Byte) :
    decodeWord referencePortMap (1#1 ++ p ++ v : BitVec (1 + 8 + 8)) = .outUnmapped p v ∧
      decodeWord referencePortMap (0#1 ++ p ++ d : BitVec (1 + 8 + 8)) = .inUnmapped p := by
  rw [decodeWord, decodeWord, ofWord_write, ofWord_read_of_any_data]
  exact decodeWith_of_unmapped (referencePortMap_ne_of_le h) v

theorem exec_outUnmapped (p v : Byte) (s : State) : exec (.outUnmapped p v) s = .next s := rfl

theorem exec_inUnmapped (p : Byte) (s : State) : exec (.inUnmapped p) s = .next (deliver 0x00 s) := rfl

/-- Settles O37: a port of no role decodes to the unmapped forms, which write nothing and deliver 0x00. -/
theorem unmappedPorts : Obligations.UnmappedPorts :=
  ⟨fun _ _ v h => decodeWith_of_unmapped h v, fun _ v d h => decodeWord_of_unmapped h v d, exec_outUnmapped,
    exec_inUnmapped⟩

end Sys2Proof.Machine
end

section
/-! PROOFS of the family 45_scanout.md: the fields of the video coordinates and of the palette byte, the structure of
the tile map they give, and the redraw pass. -/

namespace Sys2Proof.Machine

/-! ## Fields by shifts and masks -/

section Fields

variable {w : Nat}

/-- A bit field of a word is the word shifted down and masked. -/
theorem extractLsb'_toNat_eq_and (x : BitVec w) (start len : Nat) :
    (x.extractLsb' start len).toNat = (x.toNat >>> start) &&& (2 ^ len - 1) := by
  rw [BitVec.extractLsb'_toNat, Nat.and_two_pow_sub_one_eq_mod]

/-- A one-bit field is its bit. -/
theorem extractLsb'_one_eq_ofBool (x : BitVec w) (i : Nat) : x.extractLsb' i 1 = BitVec.ofBool (x.getLsbD i) := by
  ext j hj
  obtain rfl : j = 0 := by omega
  simp

/-- Masking a field in place is masking it shifted down, and shifting it back. -/
theorem and_shiftLeft_eq_shiftLeft_and (x mask k : Nat) : x &&& (mask <<< k) = ((x >>> k) &&& mask) <<< k := by
  refine Nat.eq_of_testBit_eq fun i => ?_
  by_cases hk : k ≤ i
  · simp [Nat.testBit_shiftLeft, hk]
  · simp [Nat.testBit_shiftLeft, hk]

end Fields

/-! ## The video coordinates (45_scanout.md R140, R141) -/

section VideoCoordinate

variable (zoom : Bool) (offZoom off : Nat) (scroll : Scroll)

theorem videoCoord_toNat (c : Nat) : (videoCoord zoom offZoom off scroll c).toNat =
    ((if zoom then c / 2 + offZoom else c + off) + scroll.toNat) % 1024 :=
  BitVec.toNat_ofNat _ 10

/-- Under zoom each video coordinate is shown twice. -/
theorem videoCoord_zoom_pair (k : Nat) :
    videoCoord true offZoom off scroll (2 * k) = videoCoord true offZoom off scroll (2 * k + 1) := by
  have hhalf : (2 * k + 1) / 2 = 2 * k / 2 := by omega
  simp only [videoCoord, if_true, hhalf]

end VideoCoordinate

/-- Settles O40: both clauses are the rule of a video coordinate, at the offsets of R140. -/
theorem horizontalVideoCoordinate : Obligations.HorizontalVideoCoordinate := by
  refine ⟨fun s x => videoCoord_toNat s.zoomX 2 3 s.scrollX x, fun s k hzoom => ?_⟩
  rw [videoX, videoX, hzoom]
  exact videoCoord_zoom_pair 2 3 s.scrollX k

/-! ## Tile, pattern and palette lookup by shifts and masks -/

/-- The text row puts `videoY[9]` below `videoY[8:4]` (45_scanout.md R143). -/
theorem tileY_text_toNat_eq_or (vy : Scroll) : (tileY true vy).toNat =
    (((vy.toNat >>> 3) &&& 0x3F) &&& 0x3E) ||| (if vy.getLsbD 9 then 1 else 0) := by
  have hrow : ((vy.toNat >>> 3) &&& 0x3F) &&& 0x3E = ((vy.toNat >>> 4) &&& 0x1F) <<< 1 := by
    rw [Nat.land_assoc]
    exact and_shiftLeft_eq_shiftLeft_and _ 0x1F 1
  have hhigh : (vy.extractLsb' 4 5).toNat = (vy.toNat >>> 4) &&& 0x1F := extractLsb'_toNat_eq_and vy 4 5
  have hlow : (vy.extractLsb' 9 1).toNat = if vy.getLsbD 9 then 1 else 0 := by
    rw [extractLsb'_one_eq_ofBool]
    cases vy.getLsbD 9 <;> rfl
  rw [tileY, if_pos rfl, BitVec.toNat_append, hhigh, hlow, hrow]

/-- Settles O42: each coordinate is a bit field; the text row's is in two parts. -/
theorem tileCoordinates : Obligations.TileCoordinates :=
  ⟨fun vx => extractLsb'_toNat_eq_and vx 3 7, fun vy => extractLsb'_toNat_eq_and vy 3 6, tileY_text_toNat_eq_or⟩

/-- The pattern address is its three fields shifted to their places (45_scanout.md R145). -/
theorem patternAddr_toNat_eq_or (n : Byte) (vx vy : Scroll) : (patternAddr n vx vy).toNat =
    (vx.toNat &&& 7) ||| (((vy.toNat &&& 7) &&& 0b110) <<< 2) ||| (n.toNat <<< 5) := by
  have hlow : (vx.extractLsb' 0 3).toNat = vx.toNat &&& 7 := extractLsb'_toNat_eq_and vx 0 3
  have hmid : (vy.extractLsb' 1 2).toNat = (vy.toNat >>> 1) &&& 3 := extractLsb'_toNat_eq_and vy 1 2
  have hrow : ((vy.toNat &&& 7) &&& 0b110) <<< 2 = ((vy.toNat >>> 1) &&& 3) <<< 3 := by
    rw [Nat.land_assoc, Nat.shiftLeft_add _ 1 2]
    exact congrArg (· <<< 2) (and_shiftLeft_eq_shiftLeft_and _ 3 1)
  rw [patternAddr, BitVec.toNat_append, BitVec.toNat_append, hlow, hmid, hrow, Nat.shiftLeft_or_distrib,
    ← Nat.shiftLeft_add]
  ac_rfl

/-- The low nibble stands for the even rows, the high one for the odd (45_scanout.md R146). -/
theorem pixelNibble_toNat (vy : Scroll) (p : Byte) :
    (pixelNibble vy p).toNat = if vy.toNat % 2 = 0 then p.toNat % 16 else p.toNat / 16 := by
  have hp := p.isLt
  have hrow : vy.getLsbD 0 = decide (vy.toNat % 2 = 1) := Nat.testBit_zero _
  rw [pixelNibble, hrow]
  obtain heven | hodd := Nat.mod_two_eq_zero_or_one vy.toNat
  · simp [heven, BitVec.extractLsb'_toNat]
  · simp only [hodd, decide_true, if_true, one_ne_zero, if_false, BitVec.extractLsb'_toNat,
      Nat.shiftRight_eq_div_pow]
    omega

/-- Settles O43: the address's fields in their places, and the nibble by the row's parity, which masking by 7 keeps. -/
theorem patternLookup : Obligations.PatternLookup := by
  refine ⟨patternAddr_toNat_eq_or, fun vy p => ?_⟩
  have hparity : (vy.toNat &&& 7) % 2 = vy.toNat % 2 := by
    rw [Nat.and_two_pow_sub_one_eq_mod vy.toNat 3]
    omega
  rw [pixelNibble_toNat, hparity]

theorem palettePage_graphics_toNat (vy : Scroll) : (palettePage false vy).toNat = vy.toNat / 512 := by
  have := vy.isLt
  simp only [palettePage, Bool.false_eq_true, if_false, BitVec.extractLsb'_toNat, Nat.shiftRight_eq_div_pow]
  omega

theorem palettePage_text_toNat (vy : Scroll) : (palettePage true vy).toNat = vy.toNat / 8 % 2 := by
  simp only [palettePage, if_true, BitVec.extractLsb'_toNat, Nat.shiftRight_eq_div_pow]

/-! ## The palette byte's colour (45_scanout.md R150 to R153) -/

/-- A nibble in both halves of a byte is 17 times itself (45_scanout.md R152). -/
theorem channelByte_toNat (c : BitVec 4) : (channelByte c).toNat = 17 * c.toNat := by
  rw [channelByte, BitVec.toNat_append, ← Nat.shiftLeft_add_eq_or_of_lt c.isLt, Nat.shiftLeft_eq]
  omega

/-- The intensity, bits 1:0 of the palette byte (45_scanout.md R150). -/
theorem intensity_eq_ofNat (p : Byte) : p.extractLsb' 0 2 = BitVec.ofNat 2 (p.toNat % 4) := by
  apply BitVec.eq_of_toNat_eq
  rw [BitVec.extractLsb'_toNat, BitVec.toNat_ofNat, Nat.shiftRight_zero, Nat.mod_mod]

/-- Settles O45: the fields of the palette byte are its bits, and each channel's nibble is replicated. -/
theorem paletteByteColour : Obligations.PaletteByteColour := by
  intro p
  simp only [paletteColour, channelByte_toNat, extractLsb'_one_eq_ofBool, intensity_eq_ofNat, and_self]

/-! ## The structure of the tile map (45_scanout.md R156, R157) -/

/-- The pattern address and the nibble read only the low three bits of `videoY` (45_scanout.md R145, R146). -/
theorem patternRow_congr {vy wy : Scroll} (h : vy.toNat % 8 = wy.toNat % 8) (n : Byte) (vx : Scroll) (p : Byte) :
    patternAddr n vx vy = patternAddr n vx wy ∧ pixelNibble vy p = pixelNibble wy p := by
  have hrow : vy.toNat / 2 % 4 = wy.toNat / 2 % 4 := by omega
  have hparity : vy.toNat % 2 = wy.toNat % 2 := by omega
  refine ⟨BitVec.eq_of_toNat_eq ?_, BitVec.eq_of_toNat_eq ?_⟩
  · rw [patternAddr_toNat, patternAddr_toNat, hrow]
  · rw [pixelNibble_toNat, pixelNibble_toNat, hparity]

theorem add_512_toNat (vy : Scroll) : (vy + 512).toNat = (vy.toNat + 512) % 1024 := BitVec.toNat_add vy 512

/-- 512 lines on, graphics mode shows the same tile row (45_scanout.md R156). -/
theorem tileY_graphics_add_512 (vy : Scroll) : tileY false (vy + 512) = tileY false vy := by
  apply BitVec.eq_of_toNat_eq
  rw [tileY_graphics_toNat, tileY_graphics_toNat, add_512_toNat]
  omega

/-- 512 lines on, graphics mode takes the other palette page (45_scanout.md R156). -/
theorem palettePage_graphics_add_512_ne (vy : Scroll) : palettePage false (vy + 512) ≠ palettePage false vy := by
  intro h
  have hlt := vy.isLt
  have hpage := congrArg BitVec.toNat h
  rw [palettePage_graphics_toNat, palettePage_graphics_toNat, add_512_toNat] at hpage
  omega

/-- In text mode one tile row spans 16 lines (45_scanout.md R157). -/
theorem tileY_text_congr {vy wy : Scroll} (h : vy.toNat / 16 = wy.toNat / 16) : tileY true vy = tileY true wy := by
  have hhalf : vy.toNat / 512 = wy.toNat / 512 := by omega
  apply BitVec.eq_of_toNat_eq
  rw [tileY_text_toNat, tileY_text_toNat, h, hhalf]

/-- From the first 8 lines of a text row, 8 lines on is no wrap. -/
theorem add_8_toNat {vy : Scroll} (h : vy.toNat % 16 < 8) : (vy + 8).toNat = vy.toNat + 8 := by
  have hlt := vy.isLt
  rw [BitVec.toNat_add]
  show (vy.toNat + 8) % 1024 = _
  omega

/-- The two halves of a text row take the two palette pages (45_scanout.md R157). -/
theorem palettePage_text_halves {vy : Scroll} (h : vy.toNat % 16 < 8) :
    palettePage true vy = 0 ∧ palettePage true (vy + 8) = 1 := by
  refine ⟨BitVec.eq_of_toNat_eq ?_, BitVec.eq_of_toNat_eq ?_⟩
  · rw [palettePage_text_toNat]
    show _ = 0
    omega
  · rw [palettePage_text_toNat, add_8_toNat h]
    show _ = 1
    omega

/-- Settles O55: row, page and pattern row are the quotients and remainders of `videoY`, which 512 or 8 lines move as
stated. -/
theorem tileMapStructure : Obligations.TileMapStructure := by
  refine ⟨fun vy => ⟨tileY_graphics_add_512 vy, palettePage_graphics_add_512_ne vy, patternRow_congr ?_⟩,
    fun _ _ => tileY_text_congr, fun vy h => ?_⟩
  · rw [add_512_toNat]
    omega
  · obtain ⟨hfirst, hsecond⟩ := palettePage_text_halves h
    refine ⟨hfirst, hsecond, patternRow_congr ?_⟩
    rw [add_8_toNat h, Nat.add_mod_right]

/-! ## The pixel and the redraw pass -/

/-- Settles O48: a pixel is a function of what its coordinates and lookups read, and they read nothing else. -/
theorem pixelReadsOnlyVideoState : Obligations.PixelReadsOnlyVideoState :=
  fun _ _ hx hy hzx hzy ht hm x y => pixel_congr hx hy hzx hzy ht hm x y

/-- A redraw step that comes next is the scheduler's step on the state without it. -/
theorem stepWith_redraw (pm : PortMap) (table : ScancodeTable) {s : State} {rest : List Stimulus}
    (h : s.pending = .redraw :: rest) :
    stepWith pm table s = .next (redrawStep { s with pending := rest }) := by
  rw [stepWith, h]
  rfl

theorem redrawStep_of_dirty {s : State} (h : s.dirty = true) :
    redrawStep s = { s with fb := render s, dirty := false } := if_pos h

theorem redrawStep_of_clean {s : State} (h : s.dirty = false) : redrawStep s = s := if_neg (by simp [h])

/-- The schedule is no part of the picture (45_scanout.md R138). -/
theorem render_with_pending (s : State) (rest : List Stimulus) : render { s with pending := rest } = render s :=
  render_congr rfl rfl rfl rfl rfl fun _ _ => rfl

/-- The picture's byte of a pixel's channel, at its place of the framebuffer (45_scanout.md R139). -/
theorem render_at (s : State) {x y c : Nat} (hx : x < 640) (hy : y < 480) (hc : c < 4) :
    (render s)[4 * (y * 640 + x) + c]? = some ((pixel s x y).channel c) := by
  rw [render_getElem? s (by omega), renderByte_at s y hx hc]

/-- Settles O49: the framebuffer of a pass is the picture of the state it starts from. -/
theorem redrawPass : Obligations.RedrawPass := by
  intro pm table s rest hnext
  rw [stepWith_redraw pm table hnext]
  refine ⟨fun hdirty => ⟨render s, ?_, fun x y hx hy => ?_⟩, fun hclean => ?_⟩
  · rw [redrawStep_of_dirty (s := { s with pending := rest }) hdirty, render_with_pending]
  · exact ⟨render_at s hx hy (c := 0) (by decide), render_at s hx hy (c := 1) (by decide),
      render_at s hx hy (c := 2) (by decide), render_at s hx hy (c := 3) (by decide)⟩
  · exact congrArg Host.Outcome.next (redrawStep_of_clean hclean)

end Sys2Proof.Machine
end

section
/-! PROOFS of the family 60_exceptions.md: no step of any agent faults or is refused. -/

namespace Sys2Proof.Machine

open Sys2Proof.Safety

/-- Settles O8, by whether anything is pending: the idle step answers its own state, and each agent's step answers
`performed`, a transaction's because `exec_eq_after` holds of every instruction. -/
theorem everyStepAnswers : Obligations.EveryStepAnswers := by
  intro pm table s
  unfold stepWith
  split
  case h_1 => exact ⟨s, rfl⟩
  case h_2 e rest _ => exact ⟨_, perform_eq_performed pm table e { s with pending := rest }⟩

end Sys2Proof.Machine
end

section
/-! PROOFS of the family 70_reset_and_hazards.md: runs of auto-increment accesses, a FIFO that is emptied, and a changed
framebuffer. -/

namespace Sys2Proof.Machine

open Sys2Proof.Safety

/-- Each of the eight auto-increment forms adds 1 to the latch modulo 8192 (42_vram_access.md R97 to R100, R105 to
R108). -/
theorem latchAfter_of_autoIncrement {i : Instr} (h : autoIncrement i = true) (l : Nat) :
    latchAfter i l = (l + 1) % 8192 := by
  cases i
  case outNameInc | inNameInc | outColorInc | inColorInc | outPatternInc | inPatternInc | outPaletteInc | inPaletteInc =>
    rfl
  all_goals cases h

/-- Settles O18, by induction on the list: the rest runs from a latch one further on. -/
theorem autoIncrementRun : Obligations.AutoIncrementRun := by
  intro is
  induction is with
  | nil => exact fun s _ => ⟨s, rfl, (Nat.mod_eq_of_lt s.latch.isLt).symm⟩
  | cons i is ih =>
    intro s hinc
    obtain ⟨hi, his⟩ := List.forall_mem_cons.1 hinc
    obtain ⟨t, hrun, hlatch⟩ := ih (after i s) his
    rw [execAll, exec_eq_after]
    refine ⟨t, hrun, ?_⟩
    rw [hlatch, after_latch, latchAfter_of_autoIncrement hi, List.length_cons]
    omega

/-- A stimulus with a pop in it is the CPU's `IN SER_POP`. -/
theorem transaction_inSerPop_of_popCount_pos {pm : PortMap} {e : Stimulus} (h : 0 < popCount pm [e]) :
    ∃ op, e = .transaction op ∧ decodeWith pm op = .inSerPop := by
  obtain ⟨e', he', hpop⟩ := List.mem_filterMap.1 (List.count_pos_iff.1 h)
  obtain rfl := List.mem_singleton.1 he'
  cases e' with
  | transaction op => exact ⟨op, rfl, Option.some.inj hpop⟩
  | redraw => cases hpop
  | keyEvent k t => cases hpop

/-- An agent's step that empties a non-empty FIFO has a pop in it: the bytes it held were removed. -/
theorem popCount_pos_of_performed_empties {pm : PortMap} {table : ScancodeTable} {e : Stimulus} {s : State}
    (hs : s.fifo ≠ []) (ht : (performed pm table e s).fifo = []) : 0 < popCount pm [e] := by
  obtain ⟨removed, hbytes, hlen⟩ := performed_fifo_conserved pm table e s
  rw [ht, List.append_nil] at hbytes
  have hremoved : removed ≠ [] := hbytes ▸ List.append_ne_nil_of_left_ne_nil hs _
  exact (List.length_pos_iff.2 hremoved).trans_le hlen

/-- Settles O36: an idle step leaves the FIFO, and an agent's step that empties it removes its bytes, which only a pop
does. -/
theorem fifoNonEmptyUntilPop : Obligations.FifoNonEmptyUntilPop := by
  intro pm table s t hstep hs ht
  obtain ⟨-, rfl⟩ | ⟨e, rest, hpending, rfl⟩ := stepWith_cases hstep
  · exact absurd ht hs
  · have hcount : 0 < popCount pm [e] := popCount_pos_of_performed_empties (s := { s with pending := rest }) hs ht
    obtain ⟨op, rfl, hpop⟩ := transaction_inSerPop_of_popCount_pos hcount
    exact ⟨op, rest, hpending, hpop⟩

/-- An agent's step that changes the framebuffer is a redraw pass over a dirty state, and draws it (10_state.md R20). -/
theorem performed_fb_changed {pm : PortMap} {table : ScancodeTable} {e : Stimulus} {s : State}
    (h : (performed pm table e s).fb ≠ s.fb) :
    e = .redraw ∧ s.dirty = true ∧ (performed pm table e s).fb = render s := by
  cases e with
  | transaction op => exact absurd (after_fb _ s) h
  | keyEvent k t => exact absurd rfl h
  | redraw =>
    cases hdirty : s.dirty with
    | true => exact ⟨rfl, rfl, by rw [performed, redrawStep_of_dirty hdirty]⟩
    | false => exact absurd (congrArg State.fb (redrawStep_of_clean hdirty)) h

/-- Settles O50: an idle step leaves the framebuffer, and taking a step from the schedule changes nothing that is
drawn. -/
theorem framebufferOnlyByRedraw : Obligations.FramebufferOnlyByRedraw := by
  intro pm table s t hstep hne
  obtain ⟨-, rfl⟩ | ⟨e, rest, hpending, rfl⟩ := stepWith_cases hstep
  · exact absurd rfl hne
  · obtain ⟨rfl, hdirty, hfb⟩ := performed_fb_changed (s := { s with pending := rest }) hne
    exact ⟨rest, hpending, hdirty, hfb.trans (render_with_pending s rest)⟩

end Sys2Proof.Machine
end

section
/-! PROOFS of the family other, the transaction word: decoding and encoding undo each other (30_encoding.md R51, R55),
and a step runs the transaction that comes next. -/

namespace Sys2Proof.Machine

/-! ## Decode and encode -/

theorem roleAt_of_not_mapped {pm : PortMap} {p : Byte} (h : pm.mapped p = false) : pm.roleAt p = none :=
  roleAt_unmapped fun r hr => by
    have hany := List.any_eq_false.1 h r (Role.mem_all r)
    simp [hr] at hany

theorem outInstr_wellFormedFor (pm : PortMap) (r : Role) (v : Byte) : (r.outInstr v).wellFormedFor pm = true := by
  cases r <;> rfl

theorem inInstr_wellFormedFor (pm : PortMap) (r : Role) : r.inInstr.wellFormedFor pm = true := by
  cases r <;> rfl

@[simp] theorem portOp_outInstr (pm : PortMap) (r : Role) (v : Byte) : (r.outInstr v).portOp pm = .write (pm r) v := by
  cases r <;> rfl

@[simp] theorem portOp_inInstr (pm : PortMap) (r : Role) : r.inInstr.portOp pm = .read (pm r) := by
  cases r <;> rfl

/-- The port decode reads an instruction back from its transaction (30_encoding.md R55). -/
theorem decodeWith_portOp {pm : PortMap} (hinj : Function.Injective pm) {i : Instr} (h : i.wellFormedFor pm = true) :
    decodeWith pm (i.portOp pm) = i := by
  have out (r : Role) (v : Byte) : decodeWith pm (.write (pm r) v) = r.outInstr v :=
    (decodeWith_of_role (roleAt_port hinj r) v).1
  have inp (r : Role) : decodeWith pm (.read (pm r)) = r.inInstr :=
    (decodeWith_of_role (roleAt_port hinj r) 0).2
  cases i
  case outUnmapped p v =>
    have hp : pm.mapped p = false := by simpa [Instr.wellFormedFor] using h
    exact (decodeWith_of_no_role (roleAt_of_not_mapped hp) v).1
  case inUnmapped p =>
    have hp : pm.mapped p = false := by simpa [Instr.wellFormedFor] using h
    exact (decodeWith_of_no_role (roleAt_of_not_mapped hp) 0).2
  case inScrollxLo | inScrollyLo | inControl | inLatchLo | inLatchHi | inName | inColor | inPattern | inPalette |
      inNameInc | inColorInc | inPatternInc | inPaletteInc | inSerPop | inSerStatus => exact inp _
  all_goals exact out _ _

/-- Settles O4: the word gives back the transaction, and the transaction its instruction. -/
theorem decodeOfEncode : Obligations.DecodeOfEncode := by
  intro pm hinj i hwf
  rw [decodeWord, encodeWord, PortOp.ofWord_toWord, decodeWith_portOp hinj hwf]

theorem decodeWith_wellFormedFor (pm : PortMap) (op : PortOp) : (decodeWith pm op).wellFormedFor pm = true := by
  cases op with
  | write p v =>
    cases hrole : pm.roleAt p with
    | some r => rw [(decodeWith_of_role hrole v).1, outInstr_wellFormedFor]
    | none => simp [(decodeWith_of_no_role hrole v).1, Instr.wellFormedFor, mapped_eq_false_of_roleAt hrole]
  | read p =>
    cases hrole : pm.roleAt p with
    | some r => rw [(decodeWith_of_role hrole 0).2, inInstr_wellFormedFor]
    | none => simp [(decodeWith_of_no_role hrole 0).2, Instr.wellFormedFor, mapped_eq_false_of_roleAt hrole]

/-- The decoded instruction stands for the transaction it was decoded from: its role has that port. -/
theorem portOp_decodeWith (pm : PortMap) (op : PortOp) : (decodeWith pm op).portOp pm = op := by
  cases op with
  | write p v =>
    cases hrole : pm.roleAt p with
    | some r => rw [(decodeWith_of_role hrole v).1, portOp_outInstr, port_of_roleAt hrole]
    | none => rw [(decodeWith_of_no_role hrole v).1, Instr.portOp]
  | read p =>
    cases hrole : pm.roleAt p with
    | some r => rw [(decodeWith_of_role hrole 0).2, portOp_inInstr, port_of_roleAt hrole]
    | none => rw [(decodeWith_of_no_role hrole 0).2, Instr.portOp]

/-- The direction bit is the word's part above 65535 (30_encoding.md R51). -/
theorem direction_eq_decide (w : TransactionWord) : w.getLsbD 16 = decide (65536 ≤ w.toNat) := by
  have := w.isLt
  rw [BitVec.getLsbD, Nat.testBit_eq_decide_div_mod_eq]
  exact decide_eq_decide.2 (by omega)

/-- A word's transaction has that word, an IN word's ignored data bits cleared (30_encoding.md R51; log 19). -/
theorem toWord_ofWord_toNat (w : TransactionWord) :
    (PortOp.ofWord w).toWord.toNat = if w.toNat < 65536 then w.toNat / 256 * 256 else w.toNat := by
  have hw := w.isLt
  have hport : (w.extractLsb' 8 8).toNat = w.toNat / 256 % 256 := by
    rw [BitVec.extractLsb'_toNat, Nat.shiftRight_eq_div_pow]
  have hdata : (w.extractLsb' 0 8).toNat = w.toNat % 256 := by
    rw [BitVec.extractLsb'_toNat, Nat.shiftRight_zero]
  rw [PortOp.ofWord, direction_eq_decide]
  by_cases hin : w.toNat < 65536
  · rw [if_pos hin, decide_eq_false (by omega), if_neg Bool.false_ne_true, PortOp.toWord, wordOfFields_toNat, hport]
    simp only [BitVec.toNat_ofNat]
    omega
  · rw [if_neg hin, decide_eq_true (by omega), if_pos rfl, PortOp.toWord, wordOfFields_toNat, hport, hdata]
    simp only [BitVec.toNat_ofNat]
    omega

/-- Settles O5: decoding and encoding an instruction undo each other, so only the word's own form is left. -/
theorem encodeOfDecode : Obligations.EncodeOfDecode := by
  intro pm w
  refine ⟨decodeWith_wellFormedFor pm _, ?_⟩
  rw [encodeWord, decodeWord, portOp_decodeWith, toWord_ofWord_toNat]

/-- Settles O3, word by word. -/
theorem referenceWordsDecode : Obligations.ReferenceWordsDecode := by
  unfold Obligations.ReferenceWordsDecode
  decide

/-! ## The transaction that comes next -/

/-- Settles O6: the oldest stimulus leaves the schedule and is performed. -/
theorem stepRunsDecodedTransaction : Obligations.StepRunsDecodedTransaction := by
  intro pm table s op rest hnext
  rw [stepWith, hnext]
  rfl

/-- The three bytes of a transaction word are read back as its transaction (30_encoding.md R51; log 2). -/
theorem ofBytes_wordBytes (w : TransactionWord) : PortOp.ofBytes (wordBytes w.toNat) = .ok (PortOp.ofWord w, []) := by
  have hw := w.isLt
  have hdir : (BitVec.ofNat 8 (w.toNat / 65536)).toNat < 2 := by
    rw [BitVec.toNat_ofNat]
    omega
  have hword : (BitVec.setWidth 1 (BitVec.ofNat 8 (w.toNat / 65536)) ++ BitVec.ofNat 8 (w.toNat / 256) ++
      BitVec.ofNat 8 w.toNat : BitVec (1 + 8 + 8)) = w := by
    apply BitVec.eq_of_toNat_eq
    rw [wordOfFields_toNat, BitVec.toNat_setWidth, BitVec.toNat_ofNat, BitVec.toNat_ofNat, BitVec.toNat_ofNat]
    omega
  rw [wordBytes, PortOp.ofBytes, if_pos hdir, hword]

theorem tableTransaction_word (w : TransactionWord) : tableTransaction 24 w.toNat = some (PortOp.ofWord w) := by
  have hw := w.isLt
  rw [tableTransaction, if_pos (by omega), ofBytes_wordBytes]

/-- Settles O7: the placed word is that of its transaction, which is issued before the schedule it leaves as it was. -/
theorem placedWordRunsNext : Obligations.PlacedWordRunsNext := by
  intro s w
  refine ⟨by rw [decodeTableWord, tableTransaction_word]; rfl, ?_⟩
  rw [State.withFetchWord, issueTableWord, tableTransaction_word]
  rfl

end Sys2Proof.Machine
end

section
/-! PROOFS of the family other, the registers and the latch: what the scroll, control and latch transactions write,
and that nothing else writes the mode flags or `dirty`. -/

namespace Sys2Proof.Machine

open Sys2Proof.Safety

/-! ## The scroll and control writes -/

theorem mergeScrollLow_eq_ofNat (x : Scroll) (v : Byte) :
    mergeScrollLow x v = BitVec.ofNat 10 (x.toNat / 256 * 256 + v.toNat) := by
  rw [← mergeScrollLow_toNat, BitVec.ofNat_toNat, BitVec.setWidth_eq]

theorem mergeScrollHigh_eq_ofNat (x : Scroll) (h : BitVec 2) :
    mergeScrollHigh x h = BitVec.ofNat 10 (h.toNat * 256 + x.toNat % 256) := by
  rw [← mergeScrollHigh_toNat, BitVec.ofNat_toNat, BitVec.setWidth_eq]

/-- Settles O9: both forms merge the byte into the low part and set `dirty`. -/
theorem scrollLowWrite : Obligations.ScrollLowWrite := by
  refine ⟨⟨outForm_referencePortMap .scrollxLo, outForm_referencePortMap .scrollyLo⟩, fun v s => ?_, fun v s => ?_⟩
  · rw [← mergeScrollLow_eq_ofNat]
    rfl
  · rw [← mergeScrollLow_eq_ofNat]
    rfl

theorem controlZoomX_eq_decide (v : Byte) : controlZoomX v = decide (v.toNat / 4 % 2 = 1) :=
  Nat.testBit_eq_decide_div_mod_eq

theorem controlZoomY_eq_decide (v : Byte) : controlZoomY v = decide (v.toNat / 64 % 2 = 1) :=
  Nat.testBit_eq_decide_div_mod_eq

/-- Bit 7 is the top bit of the control byte (30_encoding.md R56). -/
theorem controlTextMode_eq_decide (v : Byte) : controlTextMode v = decide (v.toNat / 128 = 1) := by
  have htop : v.toNat / 128 % 2 = v.toNat / 128 := by
    have := v.isLt
    omega
  rw [← htop]
  exact Nat.testBit_eq_decide_div_mod_eq

/-- Settles O10: each field of the control byte in plain arithmetic, and the high parts merged above the low ones. -/
theorem controlWrite : Obligations.ControlWrite := by
  refine ⟨outForm_referencePortMap .control, fun v s => ?_⟩
  rw [← controlScrollXHigh_toNat, ← controlScrollYHigh_toNat, ← mergeScrollHigh_eq_ofNat, ← mergeScrollHigh_eq_ofNat,
    ← controlZoomX_eq_decide, ← controlZoomY_eq_decide, ← controlTextMode_eq_decide]
  rfl

/-- A scroll offset is its two parts, whatever was there before (30_encoding.md R58). -/
theorem mergeScroll_parts (x a : Scroll) :
    mergeScrollHigh (mergeScrollLow x (a.extractLsb' 0 8)) (a.extractLsb' 8 2) = a := by
  have ha := a.isLt
  apply BitVec.eq_of_toNat_eq
  simp only [mergeScrollHigh_toNat, mergeScrollLow_toNat, BitVec.extractLsb'_toNat, Nat.shiftRight_eq_div_pow]
  omega

/-- The control byte of its five fields (30_encoding.md R56), as `SETVIDEO` puts it together (R64). -/
def controlByte (xHigh yHigh : BitVec 2) (zx zy tm : Bool) : Byte :=
  ((BitVec.ofBool tm).setWidth 8 <<< 7) ||| ((BitVec.ofBool zy).setWidth 8 <<< 6) |||
    (yHigh.setWidth 8 <<< 4) ||| ((BitVec.ofBool zx).setWidth 8 <<< 2) ||| xHigh.setWidth 8

/-- Each field of the control byte is read back from it: the fields do not overlap (30_encoding.md R56). -/
theorem controlByte_fields (xHigh yHigh : BitVec 2) (zx zy tm : Bool) :
    controlScrollXHigh (controlByte xHigh yHigh zx zy tm) = xHigh ∧
      controlScrollYHigh (controlByte xHigh yHigh zx zy tm) = yHigh ∧
      controlZoomX (controlByte xHigh yHigh zx zy tm) = zx ∧ controlZoomY (controlByte xHigh yHigh zx zy tm) = zy ∧
      controlTextMode (controlByte xHigh yHigh zx zy tm) = tm := by
  revert xHigh yHigh zx zy tm
  decide

/-- Settles O13: the low writes and the control byte's parts make up each offset whole. -/
theorem setVideoSetsFields : Obligations.SetVideoSetsFields := by
  intro sx sy zx zy tm s
  have hprogram : setVideoProgram sx sy zx zy tm =
      [.outScrollxLo (sx.extractLsb' 0 8), .outScrollyLo (sy.extractLsb' 0 8),
        .outControl (controlByte (sx.extractLsb' 8 2) (sy.extractLsb' 8 2) zx zy tm)] := rfl
  obtain ⟨hx, hy, hzx, hzy, htm⟩ := controlByte_fields (sx.extractLsb' 8 2) (sy.extractLsb' 8 2) zx zy tm
  simp only [hprogram, execAll, exec, execOutScrollxLo, execOutScrollyLo, execOutControl, markDirty, hx, hy, hzx, hzy,
    htm, mergeScroll_parts]

/-- Settles O11: each of the five reads delivers the free value that comes next. -/
theorem writeOnlyRolesRead : Obligations.WriteOnlyRolesRead :=
  ⟨⟨inForm_referencePortMap .scrollxLo, inForm_referencePortMap .scrollyLo, inForm_referencePortMap .control,
      inForm_referencePortMap .latchLo, inForm_referencePortMap .latchHi⟩,
    fun s => ⟨Config.freeByte s.draws, rfl⟩, fun s => ⟨Config.freeByte s.draws, rfl⟩,
    fun s => ⟨Config.freeByte s.draws, rfl⟩, fun s => ⟨Config.freeByte s.draws, rfl⟩,
    fun s => ⟨Config.freeByte s.draws, rfl⟩⟩

/-! ## The latch writes -/

theorem mergeLatchLow_eq_ofNat (l : Index) (v : Byte) :
    mergeLatchLow l v = BitVec.ofNat 13 (l.toNat / 256 * 256 + v.toNat) := by
  rw [← mergeLatchLow_toNat, BitVec.ofNat_toNat, BitVec.setWidth_eq]

theorem mergeLatchHigh_eq_ofNat (l : Index) (v : Byte) :
    mergeLatchHigh l v = BitVec.ofNat 13 (v.toNat % 32 * 256 + l.toNat % 256) := by
  rw [← mergeLatchHigh_toNat, BitVec.ofNat_toNat, BitVec.setWidth_eq]

/-- Settles O15: each form merges its part into the latch and writes nothing else. -/
theorem latchWrite : Obligations.LatchWrite := by
  refine ⟨⟨outForm_referencePortMap .latchLo, outForm_referencePortMap .latchHi⟩, fun v s => ?_, fun v s => ?_⟩
  · rw [← mergeLatchLow_eq_ofNat]
    rfl
  · rw [← mergeLatchHigh_eq_ofNat]
    rfl

/-- The two bytes of `SETLATCH a` make up `a` with the high one written first too (30_encoding.md R59, R64). -/
theorem mergeLatch_parts_reverse (l a : Index) :
    mergeLatchLow (mergeLatchHigh l ((a.extractLsb' 8 5).setWidth 8)) (a.extractLsb' 0 8) = a := by
  have ha := a.isLt
  apply BitVec.eq_of_toNat_eq
  simp only [mergeLatchHigh_toNat, mergeLatchLow_toNat, BitVec.toNat_setWidth, BitVec.extractLsb'_toNat,
    Nat.shiftRight_eq_div_pow]
  omega

/-- Settles O17: the two parts are disjoint, so either order leaves the latch at `a`. -/
theorem setLatchEitherOrder : Obligations.SetLatchEitherOrder := by
  intro a s
  refine ⟨execAll_setLatchProgram_append a [] s, ?_⟩
  simp only [setLatchProgram, List.reverse_cons, List.reverse_nil, List.nil_append, List.cons_append, execAll, exec,
    execOutLatchLo, execOutLatchHi, mergeLatch_parts_reverse]

/-! ## Which steps write a part of the state -/

/-- The agents beside the CPU write the framebuffer, `dirty` and the FIFO at most (43_serial_fifo.md R115, 45_scanout.md
R135 to R137). -/
theorem performed_of_not_cpu {pm : PortMap} {table : ScancodeTable} {e : Stimulus} (h : cpuInstr pm e = none)
    (s : State) : ∃ f d q n,
      performed pm table e s = { s with fb := f, dirty := d, fifo := q, fifoChanges := n } := by
  cases e with
  | transaction op => cases h
  | keyEvent k t => exact ⟨_, _, _, _, rfl⟩
  | redraw =>
    cases hdirty : s.dirty with
    | true => exact ⟨_, _, _, _, redrawStep_of_dirty hdirty⟩
    | false => exact ⟨_, _, _, _, redrawStep_of_clean hdirty⟩

/-- Where neither the schedule nor the agents beside the CPU bear on a part of the state, a step that changes it is a
transaction. -/
theorem transaction_of_part_changed {α : Type} {part : State → α}
    (hpart : ∀ u f d q n p, part { u with fb := f, dirty := d, fifo := q, fifoChanges := n, pending := p } = part u)
    {pm : PortMap} {table : ScancodeTable} {s t : State} (hstep : stepWith pm table s = .next t)
    (hne : part t ≠ part s) :
    ∃ op rest, s.pending = .transaction op :: rest ∧ t = after (decodeWith pm op) { s with pending := rest } := by
  obtain ⟨-, rfl⟩ | ⟨e, rest, hnext, rfl⟩ := stepWith_cases hstep
  · exact absurd rfl hne
  · have others (h : cpuInstr pm e = none) : part (performed pm table e { s with pending := rest }) = part s := by
      obtain ⟨f, d, q, n, hperformed⟩ := performed_of_not_cpu (table := table) h { s with pending := rest }
      rw [hperformed]
      exact hpart s f d q n rest
    cases e with
    | transaction op => exact ⟨op, rest, hnext, rfl⟩
    | redraw => exact absurd (others rfl) hne
    | keyEvent k t => exact absurd (others rfl) hne

theorem controlWritten_eq_some {i : Instr} {v : Byte} (h : controlWritten i = some v) : i = .outControl v := by
  cases i
  case outControl w => rw [Option.some.inj h]
  all_goals cases h

theorem scrollXLowWritten_eq_some {i : Instr} {v : Byte} (h : scrollXLowWritten i = some v) : i = .outScrollxLo v := by
  cases i
  case outScrollxLo w => rw [Option.some.inj h]
  all_goals cases h

theorem scrollYLowWritten_eq_some {i : Instr} {v : Byte} (h : scrollYLowWritten i = some v) : i = .outScrollyLo v := by
  cases i
  case outScrollyLo w => rw [Option.some.inj h]
  all_goals cases h

/-- Settles O14: a changed flag is a transaction's work, and a transaction with no control byte leaves all three. -/
theorem modeFlagsOnlyByControl : Obligations.ModeFlagsOnlyByControl := by
  intro pm table s t hstep hne
  have hmodes : (t.zoomX, t.zoomY, t.textMode) ≠ (s.zoomX, s.zoomY, s.textMode) := by
    rw [Ne, Prod.mk.injEq, Prod.mk.injEq]
    tauto
  obtain ⟨op, rest, hnext, rfl⟩ := transaction_of_part_changed
    (part := fun u => (u.zoomX, u.zoomY, u.textMode)) (fun _ _ _ _ _ _ => rfl) hstep hmodes
  rw [after_modes] at hmodes
  cases hcontrol : controlWritten (decodeWith pm op) with
  | none => simp [hcontrol] at hmodes
  | some v => exact ⟨op, rest, v, hnext, controlWritten_eq_some hcontrol⟩

/-! ## The dirty flag -/

/-- No transaction clears `dirty` (10_state.md R18). -/
theorem after_dirty_of_dirty {s : State} (h : s.dirty = true) (i : Instr) : (after i s).dirty = true := by
  rw [after_dirty]
  split
  · rw [h, ite_self]
  · exact h
  · rfl

/-- A transaction that sets `dirty` writes a scroll offset's low part, the control byte, or a new byte to a bank
(10_state.md R18). -/
theorem writes_of_sets_dirty {i : Instr} {s : State} (hclean : s.dirty = false) (hset : (after i s).dirty = true) :
    (∃ v, i = .outScrollxLo v ∨ i = .outScrollyLo v ∨ i = .outControl v) ∨
      ∃ b v, bankStore i = some (b, v) ∧ vramByte s b s.latch ≠ v := by
  cases hx : scrollXLowWritten i with
  | some v => exact .inl ⟨v, .inl (scrollXLowWritten_eq_some hx)⟩
  | none =>
  cases hy : scrollYLowWritten i with
  | some v => exact .inl ⟨v, .inr (.inl (scrollYLowWritten_eq_some hy))⟩
  | none =>
  cases hc : controlWritten i with
  | some v => exact .inl ⟨v, .inr (.inr (controlWritten_eq_some hc))⟩
  | none =>
  cases hb : bankStore i with
  | none => simp [after_dirty, hx, hy, hc, hb, hclean] at hset
  | some store =>
    refine .inr ⟨store.1, store.2, rfl, fun hsame => ?_⟩
    simp [after_dirty, hx, hy, hc, hb, hclean, hsame] at hset

/-- Settles O51: a transaction never clears `dirty`, a key event never moves it, and a redraw never sets it. -/
theorem dirtyChangesOnlyAsListed : Obligations.DirtyChangesOnlyAsListed := by
  intro pm table s t hstep
  obtain ⟨-, rfl⟩ | ⟨e, rest, hnext, rfl⟩ := stepWith_cases hstep
  · exact ⟨fun hdirty hclean => (nomatch hdirty.symm.trans hclean), fun hclean hset => (nomatch hclean.symm.trans hset)⟩
  · cases e with
    | transaction op =>
      refine ⟨fun hdirty hclean => ?_, fun hclean hset => ?_⟩
      · have hkept := after_dirty_of_dirty (s := { s with pending := rest }) hdirty (decodeWith pm op)
        exact nomatch hkept.symm.trans hclean
      · exact ⟨op, rest, hnext, writes_of_sets_dirty (s := { s with pending := rest }) hclean hset⟩
    | redraw =>
      refine ⟨fun _ _ => ⟨rest, hnext⟩, fun hclean hset => ?_⟩
      rw [performed, redrawStep_of_clean (s := { s with pending := rest }) hclean] at hset
      exact nomatch hclean.symm.trans hset
    | keyEvent k t =>
      have hkept : (performed pm table (.keyEvent k t) { s with pending := rest }).dirty = s.dirty := rfl
      rw [hkept]
      exact ⟨fun hdirty hclean => (nomatch hdirty.symm.trans hclean),
        fun hclean hset => (nomatch hclean.symm.trans hset)⟩

end Sys2Proof.Machine
end

section
/-! PROOFS of the family other, VRAM and the reads: the auto-increment writes, the bank reads, the bytes a step changes
and the canonical form it keeps, and what the port reads change (20_memory.md, 42_vram_access.md). -/

namespace Sys2Proof.Machine

open Sys2Proof.Safety

/-! ## Addresses and the canonical form -/

/-- Settles O20: the address is bank times 8192 plus index, which an address has in one way only. -/
theorem physicalAddresses : Obligations.PhysicalAddresses :=
  ⟨fun b i => ⟨vramAddr_toNat b i, vramAddr_lt b i⟩, fun _ _ _ _ h => vramAddr_toNat_inj.1 (congrArg BitVec.toNat h)⟩

/-- Every agent's step keeps VRAM's canonical form: a transaction stores inside VRAM, and the others store nothing.
-/
theorem performed_wf {pm : PortMap} {table : ScancodeTable} (e : Stimulus) {s : State} (h : Memory.wf s.vram) :
    Memory.wf (performed pm table e s).vram := by
  have others (hcpu : cpuInstr pm e = none) : (performed pm table e s).vram = s.vram := by
    obtain ⟨f, d, q, n, hperformed⟩ := performed_of_not_cpu (table := table) hcpu s
    rw [hperformed]
  cases e with
  | transaction op => exact after_wf _ s h
  | redraw => rwa [others rfl]
  | keyEvent k t => rwa [others rfl]

/-- Settles O28: the idle step changes nothing, and each agent's step keeps the form. -/
theorem memoryFormKept : Obligations.MemoryFormKept := by
  intro pm table s t hwf hstep
  obtain ⟨-, rfl⟩ | ⟨e, rest, -, rfl⟩ := stepWith_cases hstep
  · exact hwf
  · exact performed_wf e hwf

/-- Settles O29: no cell is listed at reset. -/
theorem memoryFormAtReset : Obligations.MemoryFormAtReset :=
  ⟨List.Pairwise.nil, fun _ hc => absurd hc List.not_mem_nil⟩

/-! ## The bank writes -/

/-- A form that answers the bank's store and the advance of the latch is an auto-increment write form of the bank
(42_vram_access.md R97). -/
theorem incWrite_of_exec {b : Bank} {mk : Byte → Instr} (hexec : ∀ v s, exec (mk v) s = .next (bankWriteInc b v s)) :
    IncWrite b mk := by
  refine ⟨fun v s => ⟨memWrite s.vram (vramAddr b s.latch).toNat v, ?_, memRead_memWrite _ _ _⟩, fun s hwf => ?_⟩
  · rw [hexec, ← latch_add_one, ← dirtyAfterStore_eq]
    rfl
  · rw [hexec, bankWriteInc, vramStore_same b s hwf, ← latch_add_one]
    rfl

/-- Settles O22: each of the four forms stands at its role's port and answers its bank's store and the advance. -/
theorem incBankWrite : Obligations.IncBankWrite :=
  ⟨⟨outForm_referencePortMap .nameInc, outForm_referencePortMap .colorInc, outForm_referencePortMap .patternInc,
      outForm_referencePortMap .paletteInc⟩,
    incWrite_of_exec fun _ _ => rfl, incWrite_of_exec fun _ _ => rfl, incWrite_of_exec fun _ _ => rfl,
    incWrite_of_exec fun _ _ => rfl⟩

/-- The byte a transaction changes is the one its OUT bank form stores, at the latch (20_memory.md R47). -/
theorem bankStore_of_vramByte_changed {i : Instr} {s : State} {b : Bank} {j : Index}
    (h : vramByte (after i s) b j ≠ vramByte s b j) :
    j = s.latch ∧ bankStore i = some (b, vramByte (after i s) b j) := by
  have hvram := after_vram i s
  cases hstore : bankStore i with
  | none =>
    rw [hstore] at hvram
    exact absurd (congrArg (memRead · _) hvram) h
  | some store =>
    obtain ⟨c, v⟩ := store
    rw [hstore] at hvram
    have hbyte : vramByte (after i s) b j = if b = c ∧ j = s.latch then v else vramByte s b j :=
      (congrArg (memRead · _) hvram).trans (vramByte_vramStore c b v s j)
    by_cases hat : b = c ∧ j = s.latch
    · rw [if_pos hat] at hbyte
      exact ⟨hat.2, by rw [hbyte, hat.1]⟩
    · rw [if_neg hat] at hbyte
      exact absurd hbyte h

/-- Settles O27: a changed byte is a transaction's work, and the transaction is an OUT of its bank at the latch. -/
theorem vramOnlyByBankWrite : Obligations.VramOnlyByBankWrite := by
  intro pm table s t b j hstep hne
  obtain ⟨op, rest, hnext, rfl⟩ := transaction_of_part_changed
    (part := fun u => vramByte u b j) (fun _ _ _ _ _ _ => rfl) hstep hne
  exact ⟨op, rest, hnext, bankStore_of_vramByte_changed (s := { s with pending := rest }) hne⟩

/-! ## The bank reads -/

/-- Settles O23: each of the four forms stands at its role's port and delivers its bank's byte at the latch. -/
theorem directBankRead : Obligations.DirectBankRead :=
  ⟨⟨inForm_referencePortMap .name, inForm_referencePortMap .color, inForm_referencePortMap .pattern,
      inForm_referencePortMap .palette⟩,
    ⟨fun _ => rfl, fun _ => rfl, fun _ => rfl, fun _ => rfl⟩, fun _ _ => memRead_of_not_listed⟩

/-- A form that answers the bank's read and the advance of the latch is an auto-increment read form of the bank
(42_vram_access.md R105). -/
theorem incRead_of_exec {b : Bank} {i : Instr} (hexec : ∀ s, exec i s = .next (bankReadInc b s)) : IncRead b i := by
  intro s
  rw [hexec, ← latch_add_one]
  rfl

/-- Settles O24: each of the four forms stands at its role's port and answers its bank's read and the advance. -/
theorem incBankRead : Obligations.IncBankRead :=
  ⟨⟨inForm_referencePortMap .nameInc, inForm_referencePortMap .colorInc, inForm_referencePortMap .patternInc,
      inForm_referencePortMap .paletteInc⟩,
    ⟨incRead_of_exec fun _ => rfl, incRead_of_exec fun _ => rfl, incRead_of_exec fun _ => rfl,
      incRead_of_exec fun _ => rfl⟩,
    fun _ _ => memRead_of_not_listed⟩

/-- A read of a bank after a store to it delivers the stored byte (20_memory.md R48). -/
theorem bankRead_vramStore_delivered (b : Bank) (v : Byte) (s : State) :
    (bankRead b (vramStore b v s)).delivered = v :: s.delivered := by
  rw [bankRead, deliver_delivered, vramByte_vramStore, vramStore_latch, if_pos ⟨rfl, rfl⟩, vramStore_delivered]

/-- Settles O25, bank by bank; the advance after an auto-increment read leaves what was delivered. -/
theorem bankReadAfterWrite : Obligations.BankReadAfterWrite := by
  intro wr hwr v s
  have readBack (b : Bank) := bankRead_vramStore_delivered b v s
  simp only [List.mem_cons, List.not_mem_nil, or_false] at hwr
  obtain rfl | rfl | rfl | rfl := hwr
  · exact ⟨⟨_, rfl, readBack .name⟩, _, rfl, readBack .name⟩
  · exact ⟨⟨_, rfl, readBack .color⟩, _, rfl, readBack .color⟩
  · exact ⟨⟨_, rfl, readBack .pattern⟩, _, rfl, readBack .pattern⟩
  · exact ⟨⟨_, rfl, readBack .palette⟩, _, rfl, readBack .palette⟩

/-! ## What the port reads change (20_memory.md R37) -/

theorem sameBlock_refl (s : State) : SameBlock s s := ⟨⟨rfl, rfl, rfl, rfl, rfl⟩, rfl, rfl, rfl, rfl, rfl⟩

/-- The byte delivered and the two counters are no elements of the block's state (10_state.md R10). -/
theorem sameBlock_of_own_fields (s : State) (d : List Byte) (n k : Nat) :
    SameBlock s { s with delivered := d, draws := n, fifoChanges := k } := sameBlock_refl s

/-- A read without side effects leaves the ten elements as they were. -/
theorem after_sameBlock_of_plainRead {i : Instr} (h : plainRead i = true) (s : State) : SameBlock s (after i s) := by
  cases i
  case inSerStatus => exact after_inSerStatus_sameBlock s
  case inScrollxLo | inScrollyLo | inControl | inLatchLo | inLatchHi | inName | inColor | inPattern | inPalette |
      inUnmapped => exact sameBlock_of_own_fields s _ _ _
  all_goals cases h

theorem latch_add_one_ne (l : Index) : l + 1 ≠ l := fun h => absurd (add_eq_left.1 h) (by decide)

/-- An auto-increment read changes the latch and no other element. -/
theorem incRead_changes_latch_only {b : Bank} {i : Instr} (h : IncRead b i) (s : State) :
    ∃ t, exec i s = .next t ∧ t.latch ≠ s.latch ∧ SameBlock { s with latch := t.latch } t := by
  refine ⟨_, h s, ?_, sameBlock_of_own_fields { s with latch := _ } _ _ _⟩
  rw [← latch_add_one]
  exact latch_add_one_ne s.latch

/-- Settles O38: the reads without side effects by their forms, the auto-increment ones by `IncRead`, and the pop by
whether it found a byte. -/
theorem readsWithSideEffects : Obligations.ReadsWithSideEffects := by
  refine ⟨fun i s h => ⟨_, exec_eq_after i s, after_sameBlock_of_plainRead h s⟩, fun i hi s => ?_, fun s _ => ?_,
    fun s h => ⟨_, exec_inSerPop_empty h, sameBlock_of_own_fields s _ _ _⟩⟩
  · obtain ⟨-, ⟨hname, hcolor, hpattern, hpalette⟩, -⟩ := incBankRead
    simp only [List.mem_cons, List.not_mem_nil, or_false] at hi
    obtain rfl | rfl | rfl | rfl := hi
    · exact incRead_changes_latch_only hname s
    · exact incRead_changes_latch_only hcolor s
    · exact incRead_changes_latch_only hpattern s
    · exact incRead_changes_latch_only hpalette s
  · exact ⟨_, exec_inSerPop s, sameBlock_of_own_fields { s with fifo := s.fifo.tail } _ _ _⟩

end Sys2Proof.Machine
end

section
/-! PROOFS of the family other, the FIFO and power-up: runs of pops, the status read, the writes to the read-only roles
(43_serial_fifo.md), and what reset leaves (70_reset_and_hazards.md R180). -/

namespace Sys2Proof.Machine

open Sys2Proof.Safety

/-! ## The FIFO -/

/-- What `n + 1` pops deliver is the head, or 0x00 from an empty FIFO, and then what `n` pops of the tail deliver. -/
theorem take_append_sentinels_succ (q : List Byte) (n : Nat) :
    q.take (n + 1) ++ List.replicate (n + 1 - q.length) 0x00 =
      q.headD 0 :: (q.tail.take n ++ List.replicate (n - q.tail.length) 0x00) := by
  cases q with
  | nil => simp [List.replicate_succ]
  | cons b q => simp

/-- Settles O31, by induction on the number of pops: the rest run from the FIFO's tail. -/
theorem popsReturnFifoInOrder : Obligations.PopsReturnFifoInOrder := by
  intro n
  induction n with
  | zero => exact fun s => ⟨s, rfl, rfl, by simp⟩
  | succ n ih =>
    intro s
    obtain ⟨t, hrun, hfifo, hdelivered⟩ := ih (deliver (s.fifo.headD 0) (fifoPop s))
    rw [List.replicate_succ, execAll, exec_inSerPop]
    refine ⟨t, hrun, ?_, ?_⟩
    · rw [hfifo, deliver_fifo, fifoPop_fifo, List.drop_tail]
    · rw [hdelivered, deliver_delivered, deliver_fifo, fifoPop_fifo, fifoPop_delivered, take_append_sentinels_succ,
        List.reverse_cons, List.append_assoc, List.singleton_append]

/-- The free value of a status read is no 0x00: it is one more than a number below 255 (43_serial_fifo.md R112). -/
theorem freeStatus_ne_zero (n : Nat) : Config.freeStatus n ≠ 0 := by
  intro h
  have hlt := (Config.freeStatusIndex n).isLt
  have hvalue : ((Config.freeStatusIndex n).val + 1) % 256 = 0 := congrArg BitVec.toNat h
  omega

/-- Settles O32, by whether the FIFO is empty. -/
theorem serialStatus : Obligations.SerialStatus :=
  ⟨inForm_referencePortMap .serStatus, fun _ h => execInSerStatus_empty h,
    fun s h => ⟨Config.freeStatus s.fifoChanges, freeStatus_ne_zero _, execInSerStatus_nonEmpty h⟩⟩

/-- Settles O33: both forms stand at their roles' ports and answer the state they find. -/
theorem readOnlyRolesWrite : Obligations.ReadOnlyRolesWrite :=
  ⟨⟨outForm_referencePortMap .serPop, outForm_referencePortMap .serStatus⟩, fun _ _ => ⟨rfl, rfl⟩⟩

/-! ## Power-up -/

/-- An empty memory reads as VRAM_INIT everywhere (10_state.md R17). -/
theorem vramByte_reset (b : Bank) (i : Index) :
    vramByte State.reset b i = Config.vramInit ((bankNumber b).toNat * 8192 + i.toNat) := by
  rw [← vramAddr_toNat]
  exact memRead_of_not_listed fun _ hc => absurd hc List.not_mem_nil

theorem reset_fb_getElem? {n : Nat} (h : n < 1228800) : State.reset.fb[n]? = some (Config.fbInit n) := by
  rw [Vector.getElem?_eq_getElem h, State.reset, Vector.getElem_ofFn]

/-- Settles O1: the fields are read off, and the two memories hold their power-up bytes. -/
theorem resetState : Obligations.ResetState :=
  ⟨⟨rfl, rfl, rfl, rfl, rfl, rfl, rfl, rfl⟩, vramByte_reset, fun _ => reset_fb_getElem?, rfl, rfl⟩

/-- Settles O53: `dirty` is set at power-up. -/
theorem framebufferCoherentAtReset : Obligations.FramebufferCoherentAtReset := coherent_of_dirty rfl

end Sys2Proof.Machine
end

section
/-! PROOFS of the family other, the scanout engine: the vertical coordinate, the palette lookup and the channel decode
by shifts and masks, and that the two forms of the pixel agree (45_scanout.md R140 to R154). -/

namespace Sys2Proof.Machine

/-! ## The vertical coordinate, the palette address and the channel -/

theorem zoomYOffset_eq_two_or_three : Config.zoomYOffset = 2 ∨ Config.zoomYOffset = 3 := by
  have := Config.zoomYChoice.isLt
  unfold Config.zoomYOffset
  omega

/-- Settles O41: the rule of a video coordinate, at the offsets of R141. -/
theorem verticalVideoCoordinate : Obligations.VerticalVideoCoordinate :=
  ⟨fun s y => videoCoord_toNat s.zoomY Config.zoomYOffset 4 s.scrollY y, zoomYOffset_eq_two_or_three⟩

/-- The palette address is its three fields shifted to their places (45_scanout.md R148). -/
theorem paletteAddr_toNat_eq_or (page : BitVec 1) (c : Byte) (n : BitVec 4) :
    (paletteAddr page c n).toNat = n.toNat ||| (c.toNat <<< 4) ||| (page.toNat <<< 12) := by
  rw [paletteAddr, BitVec.toNat_append, BitVec.toNat_append, Nat.shiftLeft_or_distrib, ← Nat.shiftLeft_add]
  ac_rfl

/-- Settles O44: the page is one bit of `videoY`, and the address's fields are in their places. -/
theorem paletteLookup : Obligations.PaletteLookup := by
  refine ⟨fun tm vy => ?_, paletteAddr_toNat_eq_or⟩
  cases tm with
  | false => exact palettePage_graphics_toNat vy
  | true => exact palettePage_text_toNat vy

/-- Settles O46, over the 16 inputs of the decode. -/
theorem channelDecodeFormula : Obligations.ChannelDecodeFormula := by
  unfold Obligations.ChannelDecodeFormula
  decide

/-! ## The two forms of the pixel -/

section Steps

variable (s : State) (vx vy : Scroll) (tm : Bool)

theorem stepsVideoX_eq (x : Nat) : stepsVideoX s x = (videoX s x).toNat :=
  (videoCoord_toNat s.zoomX 2 3 s.scrollX x).symm

theorem stepsVideoY_eq (y : Nat) : stepsVideoY Config.zoomYOffset s y = (videoY s y).toNat :=
  (videoCoord_toNat s.zoomY Config.zoomYOffset 4 s.scrollY y).symm

theorem stepsTileX_eq : stepsTileX vx.toNat = (tileX vx).toNat := (tileCoordinates.1 vx).symm

/-- `videoY >> 9` is the one bit that the text row puts at its bottom (45_scanout.md R143). -/
theorem shiftRight_nine_eq_bit : vy.toNat >>> 9 = if vy.getLsbD 9 then 1 else 0 := by
  have := vy.isLt
  rw [BitVec.getLsbD, Nat.testBit_eq_decide_div_mod_eq, Nat.shiftRight_eq_div_pow]
  simp only [decide_eq_true_eq]
  split <;> omega

theorem stepsTileY_eq : stepsTileY tm vy.toNat = (tileY tm vy).toNat := by
  obtain ⟨-, hgraphics, htext⟩ := tileCoordinates
  cases tm with
  | false => exact (hgraphics vy).symm
  | true => rw [htext, ← shiftRight_nine_eq_bit, stepsTileY, if_pos rfl]

theorem stepsTileAddr_eq : stepsTileAddr tm vx.toNat vy.toNat = (tileAddr (tileY tm vy) (tileX vx)).toNat := by
  rw [stepsTileAddr, stepsTileX_eq, stepsTileY_eq, tileAddr, BitVec.toNat_append, Nat.lor_comm]

theorem stepsPatternAddr_eq (n : Byte) :
    stepsPatternAddr n.toNat vx.toNat vy.toNat = (patternAddr n vx vy).toNat := (patternLookup.1 n vx vy).symm

theorem stepsNibble_eq (p : Byte) : stepsNibble vy.toNat p.toNat = (pixelNibble vy p).toNat :=
  (patternLookup.2 vy p).symm

theorem stepsPage_eq : stepsPage tm vy.toNat = (palettePage tm vy).toNat := by
  cases tm with
  | false => rw [palettePage_graphics_toNat]; exact Nat.shiftRight_eq_div_pow _ 9
  | true => rw [palettePage_text_toNat]; exact congrArg (· % 2) (Nat.shiftRight_eq_div_pow _ 3)

theorem stepsPaletteAddr_eq (page : BitVec 1) (c : Byte) (n : BitVec 4) :
    stepsPaletteAddr page.toNat c.toNat n.toNat = (paletteAddr page c n).toNat :=
  (paletteAddr_toNat_eq_or page c n).symm

/-- The byte at `(b << 13) | i` is the bank's byte at that index (20_memory.md R31). -/
theorem stepsVram_eq (b : Bank) (i : Index) : stepsVram s (bankNumber b).toNat i.toNat = (vramByte s b i).toNat := by
  rw [stepsVram, vramByte, vramAddr, BitVec.toNat_append]

end Steps

/-- The palette byte of the bit-field form, at a video coordinate (45_scanout.md R142 to R149). -/
def paletteByteAt (s : State) (vx vy : Scroll) : Byte :=
  let tile := tileAddr (tileY s.textMode vy) (tileX vx)
  let patternByte := vramByte s .pattern (patternAddr (vramByte s .name tile) vx vy)
  vramByte s .palette
    (paletteAddr (palettePage s.textMode vy) (vramByte s .color tile) (pixelNibble vy patternByte))

theorem pixel_eq_paletteColour (s : State) (x y : Nat) :
    pixel s x y = paletteColour (paletteByteAt s (videoX s x) (videoY s y)) := rfl

/-- The two forms look up the same palette byte: each lookup is at the same address. -/
theorem stepsPaletteByte_eq (s : State) (x y : Nat) :
    stepsPaletteByte Config.zoomYOffset s x y = (paletteByteAt s (videoX s x) (videoY s y)).toNat := by
  have name (i : Index) : stepsVram s 0 i.toNat = (vramByte s .name i).toNat := stepsVram_eq s .name i
  have color (i : Index) : stepsVram s 1 i.toNat = (vramByte s .color i).toNat := stepsVram_eq s .color i
  have pattern (i : Index) : stepsVram s 2 i.toNat = (vramByte s .pattern i).toNat := stepsVram_eq s .pattern i
  have palette (i : Index) : stepsVram s 3 i.toNat = (vramByte s .palette i).toNat := stepsVram_eq s .palette i
  simp only [stepsPaletteByte, paletteByteAt, stepsVideoX_eq, stepsVideoY_eq, stepsTileAddr_eq, name, color,
    stepsPatternAddr_eq, pattern, stepsNibble_eq, stepsPage_eq, stepsPaletteAddr_eq, palette]

/-- A channel of the bit-field form is that of the steps: the two bits, the intensity and the replication. -/
theorem channel_toNat (p : Byte) (lo : Nat) :
    (channelByte (channelDecode (p.extractLsb' (lo + 1) 1) (p.extractLsb' lo 1) (p.extractLsb' 0 2))).toNat =
      stepsChannel p.toNat lo := by
  rw [channelByte_toNat, (channelDecodeFormula _ _ _).1, BitVec.extractLsb'_toNat, BitVec.extractLsb'_toNat,
    BitVec.extractLsb'_toNat, Nat.shiftRight_zero]
  rfl

/-- Settles O47: both forms decode the same palette byte, channel by channel. -/
theorem pixelFormsAgree : Obligations.PixelFormsAgree := by
  intro s x y
  rw [stepsPaletteByte_eq, pixel_eq_paletteColour]
  exact ⟨channel_toNat _ 6, channel_toNat _ 4, channel_toNat _ 2, rfl⟩

end Sys2Proof.Machine
end
